-- ==== Sys2Proof/Word.lean ====
section
/-! DEFINITION. The word of the block: 64 bits (00_scope.md R7), and the two widths the host sees. -/

namespace Sys2Proof

/-- A word: 64 bits (00_scope.md R7). A command, a port datum, a number's bit pattern. -/
abbrev Word := BitVec 64

/-- A port address: 32 bits, counting words (20_memory.md R50). -/
abbrev PortAddr := BitVec 32

end Sys2Proof
end

