-- ==== Sys2Proof/Syntax.lean ====
section
/-! DEFINITION. The 32 commands of 30_encoding.md R77, one constructor each.
A numeric operand is the unsigned integer of its field (R79), the operand of FRM.CAP a signed one; `WellFormed` says
which operands fit their fields (R83). -/

namespace Sys2Proof

/-- Which of the two counted bit sequences a command names (10_state.md R30). -/
inductive SeqId where
  | s0
  | s1
deriving DecidableEq, Repr

/-- A command (30_encoding.md R77, R80). Operands stand in the order of R83. -/
inductive Instr where
  /-- CFG.DIM `w, h` -/
  | cfgDim (w h : Nat)
  /-- BLK.LOAD `x0, y0` -/
  | blkLoad (x0 y0 : Nat)
  /-- BLK.STORE `x0, y0` -/
  | blkStore (x0 y0 : Nat)
  /-- DCT.FWD -/
  | dctFwd
  /-- DCT.INV -/
  | dctInv
  /-- QNT -/
  | qnt
  /-- DQNT -/
  | dqnt
  /-- XFM.FWD -/
  | xfmFwd
  /-- XFM.INV -/
  | xfmInv
  /-- ELIG `k, order` -/
  | elig (k order : Nat)
  /-- BB.NEW `s` -/
  | bbNew (s : SeqId)
  /-- BB.GET `s, i` -/
  | bbGet (s : SeqId) (i : Nat)
  /-- BB.SET `s, i, bit` -/
  | bbSet (s : SeqId) (i : Nat) (bit : Bool)
  /-- BB.CLR `s, i` -/
  | bbClr (s : SeqId) (i : Nat)
  /-- BB.SETR `s, from, to` -/
  | bbSetr (s : SeqId) (lo hi : Nat)
  /-- BB.CLRR `s, from, to` -/
  | bbClrr (s : SeqId) (lo hi : Nat)
  /-- BB.APP `s, bit` -/
  | bbApp (s : SeqId) (bit : Bool)
  /-- BB.APPALL `d, s` -/
  | bbAppall (d s : SeqId)
  /-- BB.LEN `s` -/
  | bbLen (s : SeqId)
  /-- HAM.ENC `n` -/
  | hamEnc (n : Nat)
  /-- HAM.DEC `w` -/
  | hamDec (w : Nat)
  /-- HAM.PUTB `s, byte` -/
  | hamPutb (s : SeqId) (byte : Nat)
  /-- HAM.GETB `s, k` -/
  | hamGetb (s : SeqId) (k : Nat)
  /-- SCAN.INIT `order` -/
  | scanInit (order : Nat)
  /-- SCAN.ADV -/
  | scanAdv
  /-- SCAN.RDBIT -/
  | scanRdbit
  /-- SCAN.WRBIT `bit` -/
  | scanWrbit (bit : Bool)
  /-- SCAN.STAT -/
  | scanStat
  /-- SCAN.WRBUF `s` -/
  | scanWrbuf (s : SeqId)
  /-- SCAN.RDBUF `s` -/
  | scanRdbuf (s : SeqId)
  /-- SCAN.COUNT `order` -/
  | scanCount (order : Nat)
  /-- FRM.CAP `n` -/
  | frmCap (n : Int)
deriving DecidableEq, Repr

end Sys2Proof
end

