-- ==== Sys2Proof/Config.lean ====
section
/-! DEFINITION. What an instance of the block fixes (00_scope.md R5) and the values the spec leaves open. -/

namespace Sys2Proof

/-- `NUM`, the number format of every real value (00_scope.md R5, R8; 40_block_transform.md R100): one of the IEEE 754
binary formats the spec names that fit one word (log 21). -/
inductive NumFormat where
  /-- the default: 1 sign bit, 11 exponent bits, 52 fraction bits -/
  | binary64
  /-- 1 sign bit, 8 exponent bits, 23 fraction bits, in bits 31:0 of the word -/
  | binary32
deriving DecidableEq, Repr

/-- `NBUF`, the number of counted bit sequences (00_scope.md R5): a command names a sequence with one bit (30_encoding.md R76,
the fields `s` and `d`), so there are at most two. -/
inductive SeqCount where
  | one
  /-- the default -/
  | two
deriving DecidableEq, Repr

/-- The parameters of 00_scope.md R5 that size the operands of a command word. A field is as wide as its parameter says, from
the bit where 30_encoding.md R76 begins it; the bits a narrower field leaves over are not the command's, so they must be 0
(R76, R77, R81). The widest field is the format's: the bounds of the types are those of R76 (log 23). -/
structure Widths where
  /-- `DIM_BITS`: width of the image width and height and of the block offsets -/
  dimBits : Fin 17
  /-- `NBUF` -/
  nbuf : SeqCount
  /-- `IDX_BITS`: width of a bit index field -/
  idxBits : Fin 25
  /-- `CAP_BITS`: width of the signed operand of FRM.CAP -/
  capBits : Fin 33
deriving DecidableEq, Repr

/-- The parameters of the block (00_scope.md R5, 10_state.md R35), arguments of the model: every rule is modelled for every
value of them (log 7). The bounds of R5 are the bounds of the types. -/
structure Params where
  /-- `NUM` -/
  num : NumFormat
  /-- `CTAB`: the stored cosine matrix, entry `(i, j)` at `8*i + j` (10_state.md R31) -/
  ctab : Vector Word 64
  /-- `QTAB`: the quantization table, entry `(r, c)` at `8*r + c`, each 8 bits on the port (10_state.md R31, R33) -/
  qtab : Vector (BitVec 8) 64
  /-- `HAM_G`: bit `j` of row `i` is `G[i][j]` (10_state.md R31) -/
  hamG : Vector (BitVec 7) 4
  /-- `HAM_H`: bit `j` of row `i` is `H[i][j]` (10_state.md R31) -/
  hamH : Vector (BitVec 7) 3
  /-- `ORDER_MAX`: at most 7, since `ORDER` has 3 bits (10_state.md R28) -/
  orderMax : BitVec 3
  /-- `PLANE_WORDS`: at most `2^30` -/
  planeWords : Fin (2 ^ 30 + 1)
  /-- `BITCAP`: at most `2^24 - 1` -/
  bitCap : BitVec 24
  /-- `DIM_BITS`, `NBUF`, `IDX_BITS` and `CAP_BITS` -/
  widths : Widths
deriving DecidableEq, Repr

namespace Config

/-- `MAXMAG`: `maxMagnitude` of the eligibility predicate, fixed by the source (00_scope.md R5). -/
def maxMag : Nat := 20

/-- `BITS_PER_BYTE_ENC`: bits per encoded byte, fixed by the source (00_scope.md R5). -/
def bitsPerByteEnc : Nat := 14

/-- `TERM_BYTES`: terminator length in bytes, fixed by the source (00_scope.md R5). -/
def termBytes : Nat := 4

/-- `LEVEL_SHIFT`: subtracted before the forward transform, added after the inverse (00_scope.md R5). -/
def levelShift : Nat := 128

/-- FREE VALUE (log 4, DESIGN CHOICE, safe): what `BLK[k]` holds after reset number `epoch` until the word is written.
10_state.md R21, 20_memory.md R62, U1: any pattern, the same at every read. -/
opaque blkAtReset (epoch k : Nat) : Word

/-- FREE VALUE (log 5, DESIGN CHOICE, safe): what `PLANE[a]` reads as after reset number `epoch` until the word is written.
10_state.md R32, 20_memory.md R62, U1: any pattern, the same at every read. -/
opaque planeAtReset (epoch a : Nat) : Word

end Config

end Sys2Proof
end

