-- ==== Sys2Proof/Machine/Tables.lean ====
section
/-! DEFINITION. Reading the parameter tables (10_state.md R31), their defaults in the spec, and the identification word. -/

namespace Sys2Proof

/-- Entry `(i, j)` of a table of 64, at `8*i + j` (10_state.md R31). -/
def tableEntry {α : Type} (t : Vector α 64) (i j : Fin 8) : α := t[8 * i.val + j.val]'(by omega)

/-- `C[i][j]` (40_block_transform.md R104). -/
def Params.cos (p : Params) (i j : Fin 8) : Word := tableEntry p.ctab i j

/-- `Q[r][c]` as an integer (40_block_transform.md R106). -/
def Params.quant (p : Params) (r c : Fin 8) : Nat := (tableEntry p.qtab r c).toNat

/-- `G[i][j]` (43_hamming.md R171). -/
def Params.gBit (p : Params) (i : Fin 4) (j : Nat) : Bool := (p.hamG[i]).getLsbD j

/-- `H[i][j]` (43_hamming.md R171). -/
def Params.hBit (p : Params) (i : Fin 3) (j : Nat) : Bool := (p.hamH[i]).getLsbD j

/-- `NBUF` as a number (00_scope.md R5). -/
def Widths.seqCount (w : Widths) : Nat :=
  match w.nbuf with
  | .one => 1
  | .two => 2

/-- The width of a field that names a sequence: none is needed where there is one sequence. -/
def Widths.seqBits (w : Widths) : Nat :=
  match w.nbuf with
  | .one => 0
  | .two => 1

/-- The number of a sequence (10_state.md R30). -/
def SeqId.number (q : SeqId) : Nat :=
  match q with
  | .s0 => 0
  | .s1 => 1

/-- The block has a sequence `q` (00_scope.md R5, `NBUF`; 10_state.md R30). -/
def Widths.hasSeq (w : Widths) (q : SeqId) : Bool := decide (q.number < w.seqCount)

namespace Machine

/-- The magnitudes of the cosine matrix (40_block_transform.md R104): `a0` at 0, `c_k` at `k`. -/
def cosMagnitudes : List Word :=
  [ 0x3FD6A09E667F3BCD, 0x3FDF6297CFF75CB0, 0x3FDD906BCF328D46, 0x3FDA9B66290EA1A3,
    0x3FD6A09E667F3BCD, 0x3FD1C73B39AE68C8, 0x3FC87DE2A6AEA963, 0x3FB8F8B83C69A60B ]

/-- The matrix of 40_block_transform.md R104 in its own notation: `k` for `+c_k`, `-k` for `-c_k`, 0 for `a0`. -/
def cosLayout : List (List Int) :=
  [ [0, 0, 0, 0, 0, 0, 0, 0],
    [1, 3, 5, 7, -7, -5, -3, -1],
    [2, 6, -6, -2, -2, -6, 6, 2],
    [3, -7, -1, -5, 5, 1, 7, -3],
    [4, -4, -4, 4, 4, -4, -4, 4],
    [5, -1, 7, 3, -3, -7, 1, -5],
    [6, -2, 2, -6, -6, 2, -2, 6],
    [7, -5, 3, -1, 1, -3, 5, -7] ]

/-- The constant an entry of `cosLayout` names: a negative entry is the positive constant with bit 63 set. -/
def cosEntry (k : Int) : Word :=
  let magnitude := cosMagnitudes.getD k.natAbs 0
  if k < 0 then magnitude ||| 0x8000000000000000 else magnitude

/-- The default `CTAB` (40_block_transform.md R104). -/
def defaultCtab : Vector Word 64 :=
  Vector.ofFn fun k : Fin 64 => cosEntry ((cosLayout.getD (k.val / 8) []).getD (k.val % 8) 0)

/-- The default `Q[r][c]` (40_block_transform.md R106). -/
def quantLayout : List (List (BitVec 8)) :=
  [ [16, 11, 10, 16, 24, 40, 51, 61],
    [12, 12, 14, 19, 26, 58, 60, 55],
    [14, 13, 16, 24, 40, 57, 69, 56],
    [14, 17, 22, 29, 51, 87, 80, 62],
    [18, 22, 37, 56, 68, 109, 103, 77],
    [24, 35, 55, 64, 81, 104, 113, 92],
    [49, 64, 78, 87, 103, 121, 120, 101],
    [72, 92, 95, 98, 112, 100, 103, 99] ]

/-- The default `QTAB` (40_block_transform.md R106). -/
def defaultQtab : Vector (BitVec 8) 64 :=
  Vector.ofFn fun k : Fin 64 => (quantLayout.getD (k.val / 8) []).getD (k.val % 8) 1

/-- The default `HAM_G` (43_hamming.md R171). -/
def defaultHamG : Vector (BitVec 7) 4 := #v[0x31, 0x52, 0x64, 0x78]

/-- The default `HAM_H` (43_hamming.md R171). -/
def defaultHamH : Vector (BitVec 7) 3 := #v[0x1B, 0x2D, 0x4E]

/-- The defaults of `DIM_BITS`, `NBUF`, `IDX_BITS` and `CAP_BITS` (00_scope.md R5). -/
def defaultWidths : Widths where
  dimBits := 16
  nbuf := .two
  idxBits := 24
  capBits := 32

/-- The defaults of 00_scope.md R5. -/
def defaultParams : Params where
  num := .binary64
  ctab := defaultCtab
  qtab := defaultQtab
  hamG := defaultHamG
  hamH := defaultHamH
  orderMax := 7
  planeWords := 1048576
  bitCap := 65536
  widths := defaultWidths

/-- `ID`: the version 1 in 63:48 and the bytes of `DCSTEG` (10_state.md R36). -/
def idWord : Word := 0x0001444353544547

end Machine

/-- What the source gives of the parameters: `QTAB` holds 64 positive integers (40_block_transform.md R106). -/
def Params.Legal (p : Params) : Prop := ∀ r c : Fin 8, 0 < p.quant r c

end Sys2Proof
end

