-- ==== Sys2Proof/WellFormed.lean ====
section
/-! DEFINITION. Which terms of `Instr` an assembler accepts: every operand fits its field (30_encoding.md R77, R83).
A value that fits its field but is out of range for the command is well-formed: the command raises when it runs. -/

namespace Sys2Proof

/-- `x` fits an unsigned field of `n` bits. -/
def fitsField (n x : Nat) : Bool := decide (x < 2 ^ n)

/-- `x` fits a two's-complement field of `n` bits (the operand of FRM.CAP, 30_encoding.md R79). -/
def fitsSigned (n : Nat) (x : Int) : Bool := decide (-(2 ^ n) ≤ 2 * x ∧ 2 * x < 2 ^ n)

/-- Every operand fits its field: the widths of 30_encoding.md R77, the four that 00_scope.md R5 calls parameters taken from
`w`. The window number `k` of HAM.GETB is no bit index: its field has 24 bits (43_hamming.md R177). -/
def Instr.wellFormed (w : Widths) : Instr → Bool
  | .cfgDim x y => fitsField w.dimBits.val x && fitsField w.dimBits.val y
  | .blkLoad x0 y0 => fitsField w.dimBits.val x0 && fitsField w.dimBits.val y0
  | .blkStore x0 y0 => fitsField w.dimBits.val x0 && fitsField w.dimBits.val y0
  | .dctFwd => true
  | .dctInv => true
  | .qnt => true
  | .dqnt => true
  | .xfmFwd => true
  | .xfmInv => true
  | .elig k order => fitsField 6 k && fitsField 8 order
  | .bbNew q => w.hasSeq q
  | .bbGet q i => w.hasSeq q && fitsField w.idxBits.val i
  | .bbSet q i _ => w.hasSeq q && fitsField w.idxBits.val i
  | .bbClr q i => w.hasSeq q && fitsField w.idxBits.val i
  | .bbSetr q lo hi => w.hasSeq q && fitsField w.idxBits.val lo && fitsField w.idxBits.val hi
  | .bbClrr q lo hi => w.hasSeq q && fitsField w.idxBits.val lo && fitsField w.idxBits.val hi
  | .bbApp q _ => w.hasSeq q
  | .bbAppall d q => w.hasSeq d && w.hasSeq q
  | .bbLen q => w.hasSeq q
  | .hamEnc n => fitsField 4 n
  | .hamDec x => fitsField 7 x
  | .hamPutb q byte => w.hasSeq q && fitsField 8 byte
  | .hamGetb q k => w.hasSeq q && fitsField 24 k
  | .scanInit order => fitsField 8 order
  | .scanAdv => true
  | .scanRdbit => true
  | .scanWrbit _ => true
  | .scanStat => true
  | .scanWrbuf q => w.hasSeq q
  | .scanRdbuf q => w.hasSeq q
  | .scanCount order => fitsField 8 order
  | .frmCap n => fitsSigned w.capBits.val n

end Sys2Proof
end

