-- ==== Sys2Proof/Decode.lean ====
section
/-! DEFINITION. Decoding a word written to `CMD` (30_encoding.md R75 to R82), then the encoder.
Decoding is total: a word selects exactly one command or is rejected by name, and a rejected word makes the block
raise IllegalCommand (R78, R81). -/

namespace Sys2Proof

/-- The field of `c` that starts at bit `lo` and has `n` bits, as an unsigned integer (30_encoding.md R79). -/
def fieldAt (c : Word) (lo n : Nat) : Nat := (c.extractLsb' lo n).toNat

/-- The one-bit field at bit `i`. -/
def flagAt (c : Word) (i : Nat) : Bool := c.getLsbD i

/-- The opcode, bits 63:56 in every format (30_encoding.md R75). -/
def opcodeOf (c : Word) : Nat := fieldAt c 56 8

/-- The bits `lo` to `lo + n - 1` of 55:0, as a set of bits. -/
def bitsAt (lo n : Nat) : BitVec 56 := BitVec.ofNat 56 ((2 ^ n - 1) <<< lo)

/-- A one-bit sequence field as the sequence it names (30_encoding.md R79; 10_state.md R30). -/
def SeqId.ofBit (b : Bool) : SeqId := if b then .s1 else .s0

/-- The one-bit field that names a sequence. -/
def SeqId.toBit (s : SeqId) : Bool :=
  match s with
  | .s0 => false
  | .s1 => true

/-- The field `v`, `n` bits wide, read as a two's-complement integer (30_encoding.md R79, FRM.CAP only). -/
def signedAt (c : Word) (n : Nat) : Int := (c.extractLsb' 0 n).toInt

/-- A row of the opcode table of 30_encoding.md R77: `used` is the set of bits of 55:0 that may be nonzero, `operands`
extracts the command from a word with this opcode. -/
structure OpRow where
  mnemonic : String
  op : Nat
  used : BitVec 56
  operands : Word → Instr

/-- The field `s` at bit 49 (30_encoding.md R76, formats B and V). -/
def seqField (c : Word) : SeqId := SeqId.ofBit (flagAt c 49)

/-- The field `d` at bit 50 (30_encoding.md R76, format B). -/
def dstField (c : Word) : SeqId := SeqId.ofBit (flagAt c 50)

/-- The field `bit` at bit 48 (30_encoding.md R76, format B). -/
def bitField (c : Word) : Bool := flagAt c 48

/-- The bits of a field that names a sequence (00_scope.md R5, `NBUF`). -/
def Widths.seqBitsAt (w : Widths) (lo : Nat) : BitVec 56 := bitsAt lo w.seqBits

/-- The bits of the operands of format D (30_encoding.md R76): `a` from bit 0, `b` from bit 16. -/
def Widths.pairBits (w : Widths) : BitVec 56 := bitsAt 0 w.dimBits.val ||| bitsAt 16 w.dimBits.val

/-- The bits of a bit index, field `i` from bit 0 (30_encoding.md R76, format B). -/
def Widths.indexBits (w : Widths) : BitVec 56 := bitsAt 0 w.idxBits.val

/-- The bits of a bit range, field `i` from bit 0 and field `j` from bit 24 (30_encoding.md R76, format B). -/
def Widths.rangeBits (w : Widths) : BitVec 56 := bitsAt 0 w.idxBits.val ||| bitsAt 24 w.idxBits.val

/-- The image and block commands: opcodes 0x02 to 0x17 and 0x20 (30_encoding.md R77). -/
def blockRows (w : Widths) : List OpRow :=
  [ ⟨"CFG.DIM", 0x02, w.pairBits, fun c => .cfgDim (fieldAt c 0 w.dimBits.val) (fieldAt c 16 w.dimBits.val)⟩,
    ⟨"BLK.LOAD", 0x10, w.pairBits, fun c => .blkLoad (fieldAt c 0 w.dimBits.val) (fieldAt c 16 w.dimBits.val)⟩,
    ⟨"BLK.STORE", 0x11, w.pairBits, fun c => .blkStore (fieldAt c 0 w.dimBits.val) (fieldAt c 16 w.dimBits.val)⟩,
    ⟨"DCT.FWD", 0x12, 0, fun _ => .dctFwd⟩,
    ⟨"DCT.INV", 0x13, 0, fun _ => .dctInv⟩,
    ⟨"QNT", 0x14, 0, fun _ => .qnt⟩,
    ⟨"DQNT", 0x15, 0, fun _ => .dqnt⟩,
    ⟨"XFM.FWD", 0x16, 0, fun _ => .xfmFwd⟩,
    ⟨"XFM.INV", 0x17, 0, fun _ => .xfmInv⟩,
    ⟨"ELIG", 0x20, bitsAt 0 6 ||| bitsAt 32 8, fun c => .elig (fieldAt c 0 6) (fieldAt c 32 8)⟩ ]

/-- The bit sequence commands: opcodes 0x30 to 0x38 (30_encoding.md R77). -/
def sequenceRows (w : Widths) : List OpRow :=
  [ ⟨"BB.NEW", 0x30, w.seqBitsAt 49, fun c => .bbNew (seqField c)⟩,
    ⟨"BB.GET", 0x31, w.seqBitsAt 49 ||| w.indexBits, fun c => .bbGet (seqField c) (fieldAt c 0 w.idxBits.val)⟩,
    ⟨"BB.SET", 0x32, w.seqBitsAt 49 ||| bitsAt 48 1 ||| w.indexBits,
      fun c => .bbSet (seqField c) (fieldAt c 0 w.idxBits.val) (bitField c)⟩,
    ⟨"BB.CLR", 0x33, w.seqBitsAt 49 ||| w.indexBits, fun c => .bbClr (seqField c) (fieldAt c 0 w.idxBits.val)⟩,
    ⟨"BB.SETR", 0x34, w.seqBitsAt 49 ||| w.rangeBits,
      fun c => .bbSetr (seqField c) (fieldAt c 0 w.idxBits.val) (fieldAt c 24 w.idxBits.val)⟩,
    ⟨"BB.CLRR", 0x35, w.seqBitsAt 49 ||| w.rangeBits,
      fun c => .bbClrr (seqField c) (fieldAt c 0 w.idxBits.val) (fieldAt c 24 w.idxBits.val)⟩,
    ⟨"BB.APP", 0x36, w.seqBitsAt 49 ||| bitsAt 48 1, fun c => .bbApp (seqField c) (bitField c)⟩,
    ⟨"BB.APPALL", 0x37, w.seqBitsAt 50 ||| w.seqBitsAt 49, fun c => .bbAppall (dstField c) (seqField c)⟩,
    ⟨"BB.LEN", 0x38, w.seqBitsAt 49, fun c => .bbLen (seqField c)⟩ ]

/-- The Hamming, scanner and framing commands: opcodes 0x40 to 0x60 (30_encoding.md R77). -/
def mediumRows (w : Widths) : List OpRow :=
  [ ⟨"HAM.ENC", 0x40, bitsAt 0 4, fun c => .hamEnc (fieldAt c 0 4)⟩,
    ⟨"HAM.DEC", 0x41, bitsAt 0 7, fun c => .hamDec (fieldAt c 0 7)⟩,
    ⟨"HAM.PUTB", 0x42, w.seqBitsAt 49 ||| bitsAt 0 8, fun c => .hamPutb (seqField c) (fieldAt c 0 8)⟩,
    ⟨"HAM.GETB", 0x43, w.seqBitsAt 49 ||| bitsAt 0 24, fun c => .hamGetb (seqField c) (fieldAt c 0 24)⟩,
    ⟨"SCAN.INIT", 0x50, bitsAt 32 8, fun c => .scanInit (fieldAt c 32 8)⟩,
    ⟨"SCAN.ADV", 0x51, 0, fun _ => .scanAdv⟩,
    ⟨"SCAN.RDBIT", 0x52, 0, fun _ => .scanRdbit⟩,
    ⟨"SCAN.WRBIT", 0x53, bitsAt 48 1, fun c => .scanWrbit (bitField c)⟩,
    ⟨"SCAN.STAT", 0x54, 0, fun _ => .scanStat⟩,
    ⟨"SCAN.WRBUF", 0x55, w.seqBitsAt 49, fun c => .scanWrbuf (seqField c)⟩,
    ⟨"SCAN.RDBUF", 0x56, w.seqBitsAt 49, fun c => .scanRdbuf (seqField c)⟩,
    ⟨"SCAN.COUNT", 0x57, bitsAt 32 8, fun c => .scanCount (fieldAt c 32 8)⟩,
    ⟨"FRM.CAP", 0x60, bitsAt 0 w.capBits.val, fun c => .frmCap (signedAt c w.capBits.val)⟩ ]

/-- The whole opcode table: 32 rows (30_encoding.md R77), the operands of the widths `w`. -/
def opcodeTable (w : Widths) : List OpRow := blockRows w ++ sequenceRows w ++ mediumRows w

/-- Why a word is no command (30_encoding.md R81). -/
inductive Reject where
  /-- the opcode is not one of the 32: reserved (R81, U6) -/
  | reservedOpcode (op : Nat)
  /-- a bit that R77 does not give to this opcode's command is 1 (R81, U7) -/
  | reservedBits (op : Nat)
deriving DecidableEq, Repr

/-- Decoding a word written to `CMD` (30_encoding.md R78): the opcode alone selects the command, then every bit the
command does not use must be 0. `w` sizes the operands (00_scope.md R5). -/
def decode (w : Widths) (c : Word) : Except Reject Instr :=
  match (opcodeTable w).find? (fun row => row.op == opcodeOf c) with
  | none => .error (.reservedOpcode (opcodeOf c))
  | some row =>
    if c.extractLsb' 0 56 &&& ~~~row.used = 0 then .ok (row.operands c)
    else .error (.reservedBits (opcodeOf c))

/-- The host's door to `decode`, with the default widths: the instruction of the word whose bits are `w`, the bits at and above
`nbits` zero.
A command is one 64-bit word (30_encoding.md R75), so a longer one is refused. -/
def decodeTableWord (nbits w : Nat) : Option Instr :=
  if nbits ≤ 64 then (decode Machine.defaultWidths (BitVec.ofNat 64 (w % 2 ^ nbits))).toOption else none

/-- `x` placed with its least significant bit at bit `lo`. -/
def placed (lo x : Nat) : Word := BitVec.ofNat 64 x <<< lo

/-- A row's `mask` in the machine-readable table: the opcode bits and every bit its command does not use (30_encoding.md R78). -/
def OpRow.mask (row : OpRow) : Word := 0xFF00000000000000 ||| (~~~row.used).setWidth 64

/-- A row's `match` in the machine-readable table: `op << 56` (30_encoding.md R78). -/
def OpRow.pattern (row : OpRow) : Word := placed 56 row.op

/-! The encoder, written from the formats of 30_encoding.md R76 and the operands of R77. -/

/-- A one-bit field placed at bit `lo`. -/
def placedBit (lo : Nat) (b : Bool) : Word := placed lo b.toNat

/-- Format Z: an opcode and zeros. -/
def formatZ (op : Nat) : Word := placed 56 op

/-- Format D: `b` in 31:16, `a` in 15:0. -/
def formatD (op b a : Nat) : Word := placed 56 op ||| placed 16 b ||| placed 0 a

/-- Format B: `d` 50, `s` 49, `bit` 48, `j` 47:24, `i` 23:0. -/
def formatB (op : Nat) (d s bit : Bool) (j i : Nat) : Word :=
  placed 56 op ||| placedBit 50 d ||| placedBit 49 s ||| placedBit 48 bit ||| placed 24 j ||| placed 0 i

/-- Format V: `s` 49, `aux` 39:32, `v` 31:0. -/
def formatV (op : Nat) (s : Bool) (aux v : Nat) : Word :=
  placed 56 op ||| placedBit 49 s ||| placed 32 aux ||| placed 0 v

/-- The command word of an instruction (30_encoding.md R76, R77); the operand of FRM.CAP is as wide as `w` says. -/
def encode (w : Widths) : Instr → Word
  | .cfgDim x y => formatD 0x02 y x
  | .blkLoad x0 y0 => formatD 0x10 y0 x0
  | .blkStore x0 y0 => formatD 0x11 y0 x0
  | .dctFwd => formatZ 0x12
  | .dctInv => formatZ 0x13
  | .qnt => formatZ 0x14
  | .dqnt => formatZ 0x15
  | .xfmFwd => formatZ 0x16
  | .xfmInv => formatZ 0x17
  | .elig k order => formatV 0x20 false order k
  | .bbNew s => formatB 0x30 false s.toBit false 0 0
  | .bbGet s i => formatB 0x31 false s.toBit false 0 i
  | .bbSet s i bit => formatB 0x32 false s.toBit bit 0 i
  | .bbClr s i => formatB 0x33 false s.toBit false 0 i
  | .bbSetr s lo hi => formatB 0x34 false s.toBit false hi lo
  | .bbClrr s lo hi => formatB 0x35 false s.toBit false hi lo
  | .bbApp s bit => formatB 0x36 false s.toBit bit 0 0
  | .bbAppall d s => formatB 0x37 d.toBit s.toBit false 0 0
  | .bbLen s => formatB 0x38 false s.toBit false 0 0
  | .hamEnc n => formatV 0x40 false 0 n
  | .hamDec x => formatV 0x41 false 0 x
  | .hamPutb s byte => formatV 0x42 s.toBit 0 byte
  | .hamGetb s k => formatV 0x43 s.toBit 0 k
  | .scanInit order => formatV 0x50 false order 0
  | .scanAdv => formatZ 0x51
  | .scanRdbit => formatZ 0x52
  | .scanWrbit bit => formatB 0x53 false false bit 0 0
  | .scanStat => formatZ 0x54
  | .scanWrbuf s => formatB 0x55 false s.toBit false 0 0
  | .scanRdbuf s => formatB 0x56 false s.toBit false 0 0
  | .scanCount order => formatV 0x57 false order 0
  | .frmCap n => formatV 0x60 false 0 (BitVec.ofInt w.capBits.val n).toNat

end Sys2Proof
end

