-- ==== Sys2Proof/Machine/Number.lean ====
section
/-! DEFINITION. Numbers: data of the format `NUM` in one word (00_scope.md R8; 40_block_transform.md R100 to R103; logs 9, 21).

Every finite number is an integer times the format's least positive number. That integer (its `units`) is read off exactly,
the operation is done exactly on integers, and `roundUnits` narrows the exact result once, to nearest with ties to even. -/

namespace Sys2Proof

/-- The width of the fraction: bits 51:0 of binary64 (00_scope.md R8). -/
def NumFormat.fracBits : NumFormat → Nat
  | .binary64 => 52
  | .binary32 => 23

/-- The width of the biased exponent: bits 62:52 of binary64 (00_scope.md R8). -/
def NumFormat.expBits : NumFormat → Nat
  | .binary64 => 11
  | .binary32 => 8

/-- The position of the sign: bit 63 of binary64 (00_scope.md R8). -/
def NumFormat.signAt : NumFormat → Nat
  | .binary64 => 63
  | .binary32 => 31

/-- The exponent field of the infinities and the NaNs, all ones. -/
def NumFormat.expMax : NumFormat → Nat
  | .binary64 => 2047
  | .binary32 => 255

/-- The least positive number is `2` to minus this. -/
def NumFormat.unitExp : NumFormat → Nat
  | .binary64 => 1074
  | .binary32 => 149

namespace Machine

/-- How many units make 1: a unit is the least positive number. -/
def unitScale (f : NumFormat) : Nat := 2 ^ f.unitExp

/-- The biased exponent (00_scope.md R8). -/
def expField (f : NumFormat) (v : Word) : Nat := v.toNat / 2 ^ f.fracBits % 2 ^ f.expBits

/-- The fraction (00_scope.md R8). -/
def fracField (f : NumFormat) (v : Word) : Nat := v.toNat % 2 ^ f.fracBits

/-- The sign (00_scope.md R8). -/
def isNegative (f : NumFormat) (v : Word) : Bool := v.getLsbD f.signAt

/-- The sign bit alone. -/
def signBit (f : NumFormat) : Word := BitVec.ofNat 64 (2 ^ f.signAt)

/-- `isNaN(a)` (00_scope.md R8). -/
def isNaN (f : NumFormat) (v : Word) : Bool := expField f v == f.expMax && fracField f v != 0

/-- Is `v` an infinity? -/
def isInf (f : NumFormat) (v : Word) : Bool := expField f v == f.expMax && fracField f v == 0

/-- The magnitude of a finite number in units. Subnormals have exponent field 0 and no hidden bit; they are kept
(40_block_transform.md R101). -/
def units (f : NumFormat) (v : Word) : Nat :=
  if expField f v = 0 then fracField f v else (2 ^ f.fracBits + fracField f v) * 2 ^ (expField f v - 1)

/-- A finite number in units, with its sign; both zeros are 0. -/
def signedUnits (f : NumFormat) (v : Word) : Int := if isNegative f v then -(units f v : Int) else (units f v : Int)

/-- The canonical quiet NaN, the result of every invalid operation (40_block_transform.md R102): the exponent all ones and
the first fraction bit 1. -/
def canonicalNaN (f : NumFormat) : Word := BitVec.ofNat 64 (f.expMax * 2 ^ f.fracBits + 2 ^ (f.fracBits - 1))

/-- An infinity without its sign. -/
def infMagnitude (f : NumFormat) : Nat := f.expMax * 2 ^ f.fracBits

/-- The number with the given sign whose bits below the sign are `magnitude`. -/
def withSign (f : NumFormat) (negative : Bool) (magnitude : Nat) : Word :=
  if negative then BitVec.ofNat 64 magnitude ||| signBit f else BitVec.ofNat 64 magnitude

/-- The exponent step at which a magnitude of `n` whole units is represented: a significand has one bit more than the
fraction, 53 in binary64. -/
def quantumExp (f : NumFormat) (n : Nat) : Nat := if n < 2 ^ (f.fracBits + 1) then 0 else Nat.log2 n - f.fracBits

/-- `num / den` rounded to an integer, ties to even (40_block_transform.md R101). -/
def roundHalfEven (num den : Nat) : Nat :=
  let q := num / den
  let r := num % den
  if den < 2 * r ∨ (2 * r = den ∧ q % 2 = 1) then q + 1 else q

/-- The bits below the sign of `num / den` units rounded once; too large a magnitude is an infinity
(40_block_transform.md R101). With quantum `2^e` the pattern is `e` in the exponent field plus the significand: a significand
that rounds up to the next power of two carries into the exponent field by itself, and one without the hidden bit (then
`e = 0`) is a subnormal. -/
def roundUnits (f : NumFormat) (num den : Nat) : Nat :=
  let e := quantumExp f (num / den)
  min (e * 2 ^ f.fracBits + roundHalfEven num (den * 2 ^ e)) (infMagnitude f)

/-- The number nearest to `n / den` units, `n` a nonzero signed integer. -/
def roundSigned (f : NumFormat) (n : Int) (den : Nat) : Word := withSign f (decide (n < 0)) (roundUnits f n.natAbs den)

/-- `fabs(a)` clears the sign bit (00_scope.md R8). -/
def fabs (f : NumFormat) (a : Word) : Word := BitVec.ofNat 64 (a.toNat % 2 ^ f.signAt)

/-- `a` with the sign inverted. -/
def fneg (f : NumFormat) (a : Word) : Word := a ^^^ signBit f

/-- `fadd` (00_scope.md R8; 40_block_transform.md R101, R102). An exact sum of zero is `-0` only for two negative operands. -/
def fadd (f : NumFormat) (a b : Word) : Word :=
  if isNaN f a || isNaN f b then canonicalNaN f
  else if isInf f a then
    if isInf f b && (isNegative f a != isNegative f b) then canonicalNaN f
    else withSign f (isNegative f a) (infMagnitude f)
  else if isInf f b then withSign f (isNegative f b) (infMagnitude f)
  else
    let n := signedUnits f a + signedUnits f b
    if n = 0 then withSign f (isNegative f a && isNegative f b) 0 else roundSigned f n 1

/-- `fsub` (00_scope.md R8): the sum with the second operand's sign inverted. -/
def fsub (f : NumFormat) (a b : Word) : Word := fadd f a (fneg f b)

/-- `fmul` (00_scope.md R8; 40_block_transform.md R101, R102): the sign is the exclusive-or, `0 * inf` is invalid. -/
def fmul (f : NumFormat) (a b : Word) : Word :=
  let negative := isNegative f a != isNegative f b
  if isNaN f a || isNaN f b then canonicalNaN f
  else if isInf f a || isInf f b then
    if (!isInf f a && units f a == 0) || (!isInf f b && units f b == 0) then canonicalNaN f
    else withSign f negative (infMagnitude f)
  else withSign f negative (roundUnits f (units f a * units f b) (unitScale f))

/-- `fdiv` (00_scope.md R8; 40_block_transform.md R101, R102): `0 / 0` and `inf / inf` are invalid, a nonzero number
over zero is an infinity, a finite number over an infinity a zero. -/
def fdiv (f : NumFormat) (a b : Word) : Word :=
  let negative := isNegative f a != isNegative f b
  if isNaN f a || isNaN f b then canonicalNaN f
  else if isInf f a then
    if isInf f b then canonicalNaN f else withSign f negative (infMagnitude f)
  else if isInf f b then withSign f negative 0
  else if units f b = 0 then
    if units f a = 0 then canonicalNaN f else withSign f negative (infMagnitude f)
  else withSign f negative (roundUnits f (units f a * unitScale f) (units f b))

/-- `ofInt(n)` (00_scope.md R8): exact for magnitudes a significand holds, below `2^53` in binary64; rounded beyond. -/
def ofInt (f : NumFormat) (n : Int) : Word := withSign f (decide (n < 0)) (roundUnits f (n.natAbs * unitScale f) 1)

/-- The greatest integer not above a finite number. -/
def floorInt (f : NumFormat) (a : Word) : Int := signedUnits f a / (unitScale f : Int)

/-- `ffloor(a)`, the greatest integral number not above `a` (00_scope.md R8). The commands use it on finite numbers of
magnitude below 21 only; a NaN gives the canonical NaN, an infinity itself, and a zero keeps its sign (log 14). -/
def ffloor (f : NumFormat) (a : Word) : Word :=
  if isNaN f a then canonicalNaN f
  else if isInf f a then a
  else if floorInt f a = 0 then withSign f (isNegative f a) 0
  else ofInt f (floorInt f a)

/-- `toInt(a)` converts an integral finite number exactly (00_scope.md R8; other operands log 14). -/
def toInt (f : NumFormat) (a : Word) : Int := floorInt f a

/-- A number's place in the order of the reals and the infinities: sign and magnitude as a signed integer. -/
def orderKey (f : NumFormat) (a : Word) : Int :=
  if isNegative f a then -((a.toNat % 2 ^ f.signAt : Nat) : Int) else ((a.toNat % 2 ^ f.signAt : Nat) : Int)

/-- `flt(a, b)`: the IEEE ordered less-than, false if either is NaN (00_scope.md R8). -/
def flt (f : NumFormat) (a b : Word) : Bool :=
  !isNaN f a && !isNaN f b && decide (orderKey f a < orderKey f b)

end Machine

end Sys2Proof
end

