-- ==== Sys2Proof/Machine/State.lean ====
section
/-! DEFINITION. The state of the block as plain data: everything 10_state.md R20 lists, and four fields of the
model's own (the parameters, the host's pending moves, the responses given, the reset count). -/

namespace Sys2Proof.Machine

/-- The block buffer: 64 numbers, cell `(r, c)` at index `8*r + c` (10_state.md R21). -/
abbrev Block := Vector Word 64

/-- One listed word of plane memory: its plane address and its value (log 11: the block addresses words, not bytes). -/
abbrev Cell := Nat × Word

/-- Plane memory (10_state.md R32): the words written since reset, addresses strictly rising (log 5). -/
abbrev Memory := List Cell

/-- A counted bit sequence (10_state.md R30, 42_bit_sequence.md R150): `BIT[s]` as the integer whose bit `i` is `BIT[s][i]`
(how many there are is the parameter `BITCAP`), and `LEN[s]`. -/
structure BitSeq where
  bits : Nat
  len : BitVec 24
deriving DecidableEq, Repr

/-- The names of the values of `STATUS.ERR` (60_exceptions.md R236). The reserved codes 6 to 15 are never produced
(93_implementation_defined.md U8, log 19). -/
inductive ErrCode where
  /-- 0: the last command completed -/
  | ok
  /-- 1: the scan exhausted the medium (R237) -/
  | endOfMedium
  /-- 2: an operand value with no meaning (R238) -/
  | invalidArgument
  /-- 3: no column of `H` matches the syndrome (R239) -/
  | decodeError
  /-- 4: a write at or beyond `BITCAP` (R244) -/
  | bufOverflow
  /-- 5: the word does not decode (R240) -/
  | illegalCommand
deriving DecidableEq, Repr

/-- A move of the host or of the environment (00_scope.md R10): the block's only inputs. -/
inductive HostMove where
  /-- the reset input (70_reset_and_hazards.md R260) -/
  | reset
  /-- `PortRead(addr)` (20_memory.md R52) -/
  | portRead (addr : PortAddr)
  /-- `PortWrite(addr, data)` (20_memory.md R53) -/
  | portWrite (addr : PortAddr) (data : Word)
deriving DecidableEq, Repr

/-- What the port answers to a transaction (20_memory.md R50, R52, R53). -/
inductive Response where
  /-- a read's data word -/
  | readData (w : Word)
  /-- `PortError` to a read -/
  | readError
  /-- a write that was accepted; for `CMD`, the command has completed -/
  | writeDone
  /-- `PortError` to a write -/
  | writeError
deriving DecidableEq, Repr

/-- The state of the block (10_state.md R20) with the host's moves beside it. -/
structure State where
  /-- the parameters of this block (00_scope.md R5); no step changes them (10_state.md R35; log 7) -/
  params : Params
  /-- `BLK` (10_state.md R21) -/
  blk : Block
  /-- `PLANE` (10_state.md R32) -/
  plane : Memory
  /-- `BIT[0]`, `LEN[0]` (10_state.md R30) -/
  seq0 : BitSeq
  /-- `BIT[1]`, `LEN[1]` (10_state.md R30); no word reaches it where `NBUF` is 1 (log 23) -/
  seq1 : BitSeq
  /-- `WIDTH` (10_state.md R27), below `2^DIM_BITS` -/
  width : BitVec 16
  /-- `HEIGHT` (10_state.md R27), below `2^DIM_BITS` -/
  height : BitVec 16
  /-- `ORDER` (10_state.md R28) -/
  order : BitVec 3
  /-- `SCAN_BX` (10_state.md R29) -/
  scanBx : BitVec 16
  /-- `SCAN_BY` (10_state.md R29) -/
  scanBy : BitVec 16
  /-- `SCAN_X` (10_state.md R29) -/
  scanX : BitVec 3
  /-- `SCAN_Y` (10_state.md R29) -/
  scanY : BitVec 3
  /-- `EOM` (10_state.md R26) -/
  eom : Bool
  /-- `ENC` (10_state.md R29) -/
  enc : BitVec 32
  /-- `CHG` (10_state.md R29) -/
  chg : BitVec 32
  /-- `STATUS.ERR` (10_state.md R25) -/
  err : ErrCode
  /-- `RESULT` (10_state.md R23) -/
  result : Word
  /-- `SEQ` (10_state.md R24) -/
  seqNo : BitVec 32
  /-- the model's own: the host moves still to come, oldest first (log 1) -/
  pending : List HostMove
  /-- the model's own: the responses given so far, oldest first (log 2) -/
  responses : List Response
  /-- the model's own: how many `Reset` moves have happened; selects the free values of U1 (log 6) -/
  epoch : Nat
deriving DecidableEq, Repr

/-- Why a step stops. The block itself never does (93_implementation_defined.md, end of part 1; 70_reset_and_hazards.md R276). -/
inductive Fault where
  /-- Raised by a command that reaches plane memory (BLK.LOAD, BLK.STORE, SCAN.ADV, SCAN.RDBIT, SCAN.WRBIT, SCAN.WRBUF,
  SCAN.RDBUF, SCAN.COUNT) in a state that breaks 10_state.md R34(a) or (c), where it could form an address at or beyond
  `PLANE_WORDS`. 20_memory.md R58 says no command can: no run from reset meets it (log 10). Safe. -/
  | planeAddress
deriving DecidableEq, Repr

/-- Why a command has no meaning in the model. -/
inductive Refusal where
  /-- Raised by an arm of `exec` whose instruction has no meaning yet. Safe. No arm does: every command is modelled. -/
  | notModelled (mnemonic : String)
deriving DecidableEq, Repr

/-- The empty sequence: every bit 0, length 0 (10_state.md R30; 42_bit_sequence.md R151). -/
def BitSeq.empty : BitSeq := { bits := 0, len := 0#24 }

/-- The block with parameters `p` right after the reset numbered `epoch` (10_state.md R38, 70_reset_and_hazards.md R260): every
register 0, both sequences empty, no error; `BLK` and `PLANE` hold the unspecified values of U1 (logs 4, 5, 6). -/
def State.afterReset (p : Params) (epoch : Nat) (pending : List HostMove) (responses : List Response) : State where
  params := p
  blk := Vector.ofFn fun k => Config.blkAtReset epoch k.val
  plane := []
  seq0 := BitSeq.empty
  seq1 := BitSeq.empty
  width := 0
  height := 0
  order := 0
  scanBx := 0
  scanBy := 0
  scanX := 0
  scanY := 0
  eom := false
  enc := 0
  chg := 0
  err := .ok
  result := 0
  seqNo := 0
  pending := pending
  responses := responses
  epoch := epoch

/-- The machine right after its first reset, with no host move pending (10_state.md R38; 70_reset_and_hazards.md R260), for
the default parameters of 00_scope.md R5. -/
def State.reset : State := State.afterReset defaultParams 0 [] []

/-! The parameters as the rules read them (00_scope.md R5). -/

/-- `NUM` -/
abbrev State.num (s : State) : NumFormat := s.params.num

/-- `ORDER_MAX` -/
abbrev State.orderMax (s : State) : Nat := s.params.orderMax.toNat

/-- `PLANE_WORDS` -/
abbrev State.planeWords (s : State) : Nat := s.params.planeWords.val

/-- `BITCAP` -/
abbrev State.bitCap (s : State) : Nat := s.params.bitCap.toNat

/-- `DIM_BITS`, `NBUF`, `IDX_BITS` and `CAP_BITS` -/
abbrev State.widths (s : State) : Widths := s.params.widths

end Sys2Proof.Machine
end

