-- ==== Sys2Proof/Machine/Ops.lean ====
section
/-! DEFINITION. The named operations over the state: plane memory, the block buffer, the bit sequences, and how a
command ends. -/

namespace Sys2Proof.Machine

/-- How a command ends in the model: always a next state, but for the fault of log 10. -/
abbrev Result := Host.Outcome State Fault Refusal

/-! How a command ends (60_exceptions.md R243). -/

/-- `return v`: ERR is 0 and RESULT is `v` (00_scope.md R9; 60_exceptions.md R243). -/
def State.ret (s : State) (v : Word) : State := { s with err := .ok, result := v }

/-- TAKING AN EXCEPTION on this hardware is `raise Kind(r)`: ERR is the kind's code, RESULT is `r`, and whatever the
rule wrote before stays written (00_scope.md R9; 60_exceptions.md R235, R243). There is no handler, no saved register
and no mode to enter, so there is no return from one either: the next command runs as usual (R247). -/
def State.raise (s : State) (kind : ErrCode) (r : Word) : State := { s with err := kind, result := r }

/-- The first part of every `CMD` write: `SEQ <- (SEQ + 1) mod 2^32` (10_state.md R24; 60_exceptions.md R243). -/
def State.bumpSeq (s : State) : State := { s with seqNo := s.seqNo + 1 }

/-- The port gives one more response (log 2). -/
def State.respond (s : State) (r : Response) : State := { s with responses := s.responses ++ [r] }

/-- The host's next moves become `ms` (log 1). -/
def State.setPending (s : State) (ms : List HostMove) : State := { s with pending := ms }

/-- A one-bit value as a RESULT word (60_exceptions.md R243: zero-extended). -/
def bitWord (b : Bool) : Word := if b then 1 else 0

/-- A natural number as a RESULT word (60_exceptions.md R243: zero-extended). -/
def natWord (n : Nat) : Word := BitVec.ofNat 64 n

/-! Plane memory (20_memory.md R58). -/

/-- The word listed at plane address `a`, if one is. -/
def Memory.find : Memory → Nat → Option Word
  | [], _ => none
  | (b, w) :: rest, a => if a = b then some w else if a < b then none else Memory.find rest a

/-- Plane memory with word `w` listed at plane address `a`; the addresses stay strictly rising. -/
def Memory.store : Memory → Nat → Word → Memory
  | [], a, w => [(a, w)]
  | (b, v) :: rest, a, w =>
    if a < b then (a, w) :: (b, v) :: rest
    else if a = b then (a, w) :: rest
    else (b, v) :: Memory.store rest a w

/-- The canonical form of a plane of `words` words: addresses strictly rising, each below `words` (10_state.md R32; log 5). -/
def Memory.wf (words : Nat) (m : Memory) : Bool :=
  decide (m.Pairwise (fun x y => x.1 < y.1)) && m.all (fun x => decide (x.1 < words))

/-- What a word that nothing has written since reset reads as (20_memory.md R62, U1; log 5). -/
def State.unwrittenPlane (s : State) (a : Nat) : Word := Config.planeAtReset s.epoch a

/-- `MemRead(a, 1)`, written `PLANE[a]` (20_memory.md R58). -/
def State.planeAt (s : State) (a : Nat) : Word := (Memory.find s.plane a).getD (s.unwrittenPlane a)

/-- `PLANE[a] <- w` (20_memory.md R58). -/
def State.setPlaneAt (s : State) (a : Nat) (w : Word) : State := { s with plane := Memory.store s.plane a w }

/-! The block buffer (10_state.md R21, R22). -/

/-- `B[r][c]`: index `8*r + c` (10_state.md R21). -/
def cell (b : Block) (r c : Fin 8) : Word := b[8 * r.val + c.val]'(by omega)

/-- The block whose cell `(r, c)` is `f r c`. All 64 cells are computed from what the buffer held before (10_state.md R22). -/
def blockOf (f : Fin 8 → Fin 8 → Word) : Block :=
  Vector.ofFn fun k : Fin 64 => f ⟨k.val / 8, by omega⟩ ⟨k.val % 8, by omega⟩

/-- Every cell of `BLK` written (10_state.md R22). -/
def State.setBlk (s : State) (b : Block) : State := { s with blk := b }

/-! The counted bit sequences (42_bit_sequence.md R150). -/

/-- `BIT[s][i]` (42_bit_sequence.md R150). -/
def BitSeq.get (q : BitSeq) (i : Nat) : Bool := q.bits.testBit i

/-- `LEN[s]` as an integer. -/
def BitSeq.length (q : BitSeq) : Nat := q.len.toNat

/-- `touch(s, hi)`: `LEN[s] <- max(LEN[s], hi + 1)` (42_bit_sequence.md R150). -/
def BitSeq.touch (q : BitSeq) (hi : Nat) : BitSeq := { q with len := BitVec.ofNat 24 (max q.length (hi + 1)) }

/-- The bit positions `lo <= i < lo + n`. -/
def rangeMask (lo n : Nat) : Nat := (2 ^ n - 1) <<< lo

/-- `BIT[s][lo + t] <- bit t of v` for `t = 0 .. n-1`, every other bit as it was. -/
def BitSeq.writeBits (q : BitSeq) (lo n v : Nat) : BitSeq :=
  { q with bits := (q.bits ^^^ (q.bits &&& rangeMask lo n)) ||| ((v % 2 ^ n) <<< lo) }

/-- A mutating command on the `n` indices from `lo`: the bits are written and the highest one is touched; an empty
range writes nothing and touches nothing (42_bit_sequence.md R150, R155, R158). -/
def BitSeq.put (q : BitSeq) (lo n v : Nat) : BitSeq :=
  if n = 0 then q else (q.writeBits lo n v).touch (lo + n - 1)

/-- The integer whose bit `t` is `f t`, `t = 0 .. n-1`. -/
def natOfBits (f : Nat → Bool) : Nat → Nat
  | 0 => 0
  | n + 1 => natOfBits f n + (f n).toNat * 2 ^ n

/-- The integer whose bit `t` is `BIT[s][lo + t]`, `t = 0 .. n-1`. -/
def BitSeq.window (q : BitSeq) (lo n : Nat) : Nat := natOfBits (fun t => q.get (lo + t)) n

/-- Sequence `s` of the block (10_state.md R30). -/
def State.seq (s : State) (i : SeqId) : BitSeq :=
  match i with
  | .s0 => s.seq0
  | .s1 => s.seq1

/-- Sequence `i` replaced, the other as it was. -/
def State.setSeq (s : State) (i : SeqId) (q : BitSeq) : State :=
  match i with
  | .s0 => { s with seq0 := q }
  | .s1 => { s with seq1 := q }

/-! The image and the scanner registers (10_state.md R27 to R29). -/

/-- The value a register of `DIM_BITS` bits holds when `x` is written to it (00_scope.md R5; 10_state.md R27). -/
def State.dimReg (s : State) (x : Nat) : BitVec 16 := BitVec.ofNat 16 (x % 2 ^ s.widths.dimBits.val)

/-- `WIDTH <- w; HEIGHT <- h` (40_block_transform.md R108). -/
def State.setDims (s : State) (w h : Nat) : State := { s with width := s.dimReg w, height := s.dimReg h }

/-- `ORDER <- order` (44_scanner.md R191). -/
def State.setOrder (s : State) (order : Nat) : State := { s with order := BitVec.ofNat 3 order }

/-- The scanner goes back to the first block: cursor, counters and EOM are 0 (40_block_transform.md R108; 44_scanner.md R191). -/
def State.rewind (s : State) : State :=
  { s with scanBx := 0, scanBy := 0, scanX := 0, scanY := 0, enc := 0, chg := 0, eom := false }

/-- The cursor registers written, `SCAN_Y` 0: between commands the cursor is `(0, 0)` or `(1, 0)` (10_state.md R29). -/
def State.setCursor (s : State) (bx by' : Nat) (x : BitVec 3) : State :=
  { s with scanBx := BitVec.ofNat 16 bx, scanBy := BitVec.ofNat 16 by', scanX := x, scanY := 0 }

/-- `ENC <- ENC + 1`, and `CHG <- CHG + 1` if the bit flipped (44_scanner.md R195). -/
def State.countBit (s : State) (flipped : Bool) : State :=
  { s with enc := s.enc + 1, chg := if flipped then s.chg + 1 else s.chg }

/-! Where a plane command stops (log 10). -/

/-- 10_state.md R34(a): `W * H <= PLANE_WORDS`. -/
def State.dimsFit (s : State) : Bool := decide (s.width.toNat * s.height.toNat ≤ s.planeWords)

/-- 10_state.md R34(c): while `EOM = 0`, `W >= 8` and `H >= 8`, the cursor's block is a full block. -/
def State.cursorFits (s : State) : Bool :=
  s.eom || decide (s.width.toNat < 8) || decide (s.height.toNat < 8)
    || (decide (s.scanBx.toNat + 8 ≤ s.width.toNat) && decide (s.scanBy.toNat + 8 ≤ s.height.toNat))

/-- A plane command that forms addresses `row*W + col` with `row < H` and `col < W` (20_memory.md R58). -/
def State.onPlane (s next : State) : Result := if s.dimsFit then .next next else .fault .planeAddress

/-- A scanner command, which forms the address of the cursor's DC word and of later ones (20_memory.md R58, R59). -/
def State.onScan (s next : State) : Result :=
  if s.dimsFit && s.cursorFits then .next next else .fault .planeAddress

end Sys2Proof.Machine
end

