-- ==== Sys2Proof/Machine/Flags.lean ====
section
/-! DEFINITION. The one flag, the error codes and the STATUS word (10_state.md R25, R26; 60_exceptions.md R236).
There are no condition codes, no carry, no overflow and no floating-point flags (10_state.md R26; 40_block_transform.md
R103), so a command's only flag effect is on EOM. -/

namespace Sys2Proof.Machine

/-- The numeric codes of 60_exceptions.md R236, the values of `STATUS[3:0]`. -/
def ErrCode.code : ErrCode → BitVec 4
  | .ok => 0
  | .endOfMedium => 1
  | .invalidArgument => 2
  | .decodeError => 3
  | .bufOverflow => 4
  | .illegalCommand => 5

/-- `EOM <- 1`: the scan has run out of blocks (10_state.md R26; 44_scanner.md R192). It is cleared only by `State.rewind`
(SCAN.INIT, CFG.DIM) and by reset. -/
def State.setEom (s : State) : State := { s with eom := true }

/-- The STATUS word: `ERR` in bits 3:0, `EOM` in bit 8, every other bit 0 (10_state.md R25). -/
def State.status (s : State) : Word := s.err.code.setWidth 64 ||| (bitWord s.eom <<< 8)

end Sys2Proof.Machine
end

