-- ==== Sys2Proof/Machine/Operands.lean ====
section
/-! DEFINITION. The operand forms: bit orders, block-relative and DC addresses, the order predicate's operand. -/

namespace Sys2Proof.Machine

/-- An `order` operand is legal: 0 to `ORDER_MAX` (00_scope.md R5; 10_state.md R28; 44_scanner.md R191). -/
def State.orderLegal (s : State) (order : Nat) : Bool := decide (order ≤ s.orderMax)

/-- `row*W + col` (10_state.md R27). -/
def planeAddr (width row col : Nat) : Nat := row * width + col

/-- Block-relative addressing: cell `(r, c)` at offset `(x0, y0)` lies inside the plane (20_memory.md R59).
The sums are integers and do not wrap. -/
def State.insidePlane (s : State) (x0 y0 : Nat) (r c : Fin 8) : Bool :=
  decide (x0 + c.val < s.width.toNat) && decide (y0 + r.val < s.height.toNat)

/-- Block-relative addressing: the plane address of cell `(r, c)` at offset `(x0, y0)` (20_memory.md R59). -/
def State.cellAddr (s : State) (x0 y0 : Nat) (r c : Fin 8) : Nat :=
  planeAddr s.width.toNat (y0 + r.val) (x0 + c.val)

/-- The cell of linear index `k` (10_state.md R21; 41_order_predicate.md R142). An operand has 6 bits, so `k < 64`. -/
def State.blkAt (s : State) (k : Nat) : Word := s.blk[k % 64]'(Nat.mod_lt k (by decide))

/-- `floor(|v|)` as an integer, the magnitude of a number (00_scope.md R11; 41_order_predicate.md R140). -/
def magnitude (f : NumFormat) (v : Word) : Nat := (toInt f (ffloor f (fabs f v))).toNat

/-- 21.0: one above `maxMagnitude`, where the predicate cuts (41_order_predicate.md R140). -/
def aboveMaxMag (f : NumFormat) : Word := ofInt f (Config.maxMag + 1 : Nat)

/-- `isEligible(v, o)` (41_order_predicate.md R140): `OR` is the bitwise or (90_conflicts.md C3). -/
def isEligible (f : NumFormat) (v : Word) (o : Nat) : Bool :=
  if isNaN f v then false
  else if !flt f (fabs f v) (aboveMaxMag f) then false
  else decide (2 ^ (o + 1) ≤ magnitude f v) && decide (magnitude f v ||| 2 ^ o ≤ Config.maxMag)

end Sys2Proof.Machine
end

