-- ==== Sys2Proof/Machine/Framing.lean ====
section
/-! DEFINITION. FRM.CAP, the capacity arithmetic (45_framing.md). -/

namespace Sys2Proof.Machine

/-- `capacityBytes(n)`: the quotient by 14 truncated toward zero, less the terminator (45_framing.md R220). -/
def capacityBytes (n : Int) : Int := Int.tdiv n Config.bitsPerByteEnc - Config.termBytes

/-- FRM.CAP `n` (45_framing.md R220): RESULT is the capacity sign-extended. -/
def execFrmCap (n : Int) (s : State) : Result := .next (s.ret (BitVec.ofInt 64 (capacityBytes n)))

end Sys2Proof.Machine
end

