-- ==== Sys2Proof/Machine/Sequence.lean ====
section
/-! DEFINITION. The BB commands on the counted bit sequences (42_bit_sequence.md). -/

namespace Sys2Proof.Machine

/-- The mutating commands that write `n` indices of sequence `i` from `lo`: BufOverflow, with no state changed, when
one of them is at or beyond `BITCAP` (60_exceptions.md R244); else the bits of `v` are written and touched. -/
def State.mutate (s : State) (i : SeqId) (lo n v : Nat) : State :=
  if s.bitCap < lo + n then s.raise .bufOverflow 0
  else (s.setSeq i ((s.seq i).put lo n v)).ret 0

/-- BB.NEW `s` (42_bit_sequence.md R151). -/
def execBbNew (i : SeqId) (s : State) : Result := .next ((s.setSeq i BitSeq.empty).ret 0)

/-- BB.GET `s, i` (42_bit_sequence.md R152): reading touches nothing; an index at or beyond `BITCAP` reads 0. -/
def execBbGet (i : SeqId) (at' : Nat) (s : State) : Result :=
  .next (s.ret (bitWord (decide (at' < s.bitCap) && (s.seq i).get at')))

/-- BB.SET `s, i, bit` (42_bit_sequence.md R153). -/
def execBbSet (i : SeqId) (at' : Nat) (bit : Bool) (s : State) : Result := .next (s.mutate i at' 1 bit.toNat)

/-- BB.CLR `s, i` (42_bit_sequence.md R154): clearing touches. -/
def execBbClr (i : SeqId) (at' : Nat) (s : State) : Result := .next (s.mutate i at' 1 0)

/-- BB.SETR and BB.CLRR: the half-open range `lo <= i < hi`, InvalidArgument before BufOverflow (42_bit_sequence.md R155,
R156; 60_exceptions.md R245). An empty range is legal even at `lo = hi = BITCAP`, and touches nothing. -/
def State.mutateRange (s : State) (i : SeqId) (lo hi : Nat) (bit : Bool) : State :=
  if hi < lo then s.raise .invalidArgument 0
  else s.mutate i lo (hi - lo) (if bit then 2 ^ (hi - lo) - 1 else 0)

/-- BB.SETR `s, from, to` (42_bit_sequence.md R155). -/
def execBbSetr (i : SeqId) (lo hi : Nat) (s : State) : Result :=
  .next (s.mutateRange i lo hi true)

/-- BB.CLRR `s, from, to` (42_bit_sequence.md R156). -/
def execBbClrr (i : SeqId) (lo hi : Nat) (s : State) : Result := .next (s.mutateRange i lo hi false)

/-- BB.APP `s, bit` (42_bit_sequence.md R157): writes at `LEN[s]`. -/
def execBbApp (i : SeqId) (bit : Bool) (s : State) : Result :=
  .next (s.mutate i (s.seq i).length 1 bit.toNat)

/-- BB.APPALL `d, s` (42_bit_sequence.md R158): the source's length and bits are taken once, before the copy, so `d = s`
doubles the sequence. -/
def execBbAppall (d i : SeqId) (s : State) : Result :=
  .next (s.mutate d (s.seq d).length (s.seq i).length (s.seq i).bits)

/-- BB.LEN `s` (42_bit_sequence.md R159). -/
def execBbLen (i : SeqId) (s : State) : Result := .next (s.ret (natWord (s.seq i).length))

end Sys2Proof.Machine
end

