-- ==== Sys2Proof/Machine/Hamming.lean ====
section
/-! DEFINITION. The Hamming(7,4) codec (43_hamming.md). Bit `i` of a nibble or a codeword is bit `i` of the integer (R170). -/

namespace Sys2Proof.Machine

/-- `c[j]` of `b·G` (43_hamming.md R172, R173). -/
def codeBit (p : Params) (n j : Nat) : Bool :=
  (n.testBit 0 && p.gBit 0 j) ^^ (n.testBit 1 && p.gBit 1 j) ^^ (n.testBit 2 && p.gBit 2 j)
    ^^ (n.testBit 3 && p.gBit 3 j)

/-- `encodeNibble(n)` (43_hamming.md R173). -/
def encodeNibble (p : Params) (n : Nat) : Nat := natOfBits (codeBit p n) 7

/-- `s[i]` of the syndrome `H·w` (43_hamming.md R172, R174). -/
def syndromeBit (p : Params) (w : Nat) (i : Fin 3) : Bool :=
  (List.range 7).foldl (fun acc j => acc ^^ (p.hBit i j && w.testBit j)) false

/-- Column `j` of `H` equals the syndrome of `w`. -/
def columnMatches (p : Params) (w j : Nat) : Bool :=
  p.hBit 0 j == syndromeBit p w 0 && p.hBit 1 j == syndromeBit p w 1 && p.hBit 2 j == syndromeBit p w 2

/-- `decodeNibble(w)` (43_hamming.md R174); `none` is the raise of DecodeError, unreachable with the default `H` of R171. -/
def decodeNibble (p : Params) (w : Nat) : Option Nat :=
  if !syndromeBit p w 0 && !syndromeBit p w 1 && !syndromeBit p w 2 then some (w % 16)
  else ((List.range 7).find? (columnMatches p w)).map fun j => (w ^^^ 2 ^ j) % 16

/-- HAM.ENC `n` (43_hamming.md R173). -/
def execHamEnc (n : Nat) (s : State) : Result := .next (s.ret (natWord (encodeNibble s.params n)))

/-- HAM.DEC `w` (43_hamming.md R174). -/
def execHamDec (w : Nat) (s : State) : Result :=
  .next (match decodeNibble s.params w with
    | some n => s.ret (natWord n)
    | none => s.raise .decodeError 0)

/-- The 14 bits HAM.PUTB appends: the low nibble's codeword at the lower indices, then the high nibble's, each `c[0]`
first (43_hamming.md R170, R176). -/
def byteCode (p : Params) (byte : Nat) : Nat := encodeNibble p (byte % 16) + encodeNibble p (byte / 16) * 2 ^ 7

/-- HAM.PUTB `s, byte` (43_hamming.md R176). -/
def execHamPutb (i : SeqId) (byte : Nat) (s : State) : Result :=
  .next (s.mutate i (s.seq i).length Config.bitsPerByteEnc (byteCode s.params byte))

/-- HAM.GETB `s, k` (43_hamming.md R177): InvalidArgument when window `k` is not wholly below `LEN[s]`. -/
def execHamGetb (i : SeqId) (k : Nat) (s : State) : Result :=
  let q := s.seq i
  .next (if q.length < 14 * k + 14 then s.raise .invalidArgument 0
    else match decodeNibble s.params (q.window (14 * k) 7), decodeNibble s.params (q.window (14 * k + 7) 7) with
      | some lo, some hi => s.ret (natWord (lo ||| hi * 2 ^ 4))
      | _, _ => s.raise .decodeError 0)

end Sys2Proof.Machine
end

