-- ==== Sys2Proof/Machine/Predicate.lean ====
section
/-! DEFINITION. ELIG, the eligibility predicate on one cell of the block buffer (41_order_predicate.md). -/

namespace Sys2Proof.Machine

/-- ELIG `k, order` (41_order_predicate.md R142). -/
def execElig (k order : Nat) (s : State) : Result :=
  .next (if s.orderLegal order then s.ret (bitWord (isEligible s.num (s.blkAt k) order))
    else s.raise .invalidArgument 0)

end Sys2Proof.Machine
end

