-- ==== Sys2Proof/Machine/Scanner.lean ====
section
/-! DEFINITION. The coefficient scanner and the capacity count (44_scanner.md). -/

namespace Sys2Proof.Machine

/-- How a walk over the full blocks ends. -/
inductive ScanEnd where
  /-- the DC word of block `(bx, by)` is eligible -/
  | accepted (bx by' : Nat)
  /-- no block is left; `by'` is the row past the last one -/
  | ranOut (by' : Nat)
deriving DecidableEq, Repr

/-- The loop of `advance` (44_scanner.md R192) from block `(bx, by')`: `ahead` says that the block's DC position is still
ahead of the cursor, `eligible` judges a plane address. One unit of `fuel` is one turn of the loop; log 15 says why
`blockCount` turns are enough. -/
def scanBlocks (width height : Nat) (eligible : Nat → Bool) : (fuel : Nat) → (ahead : Bool) → (bx by' : Nat) → ScanEnd
  | 0, _, _, by' => .ranOut by'
  | fuel + 1, ahead, bx, by' =>
    if ahead && eligible (planeAddr width by' bx) then .accepted bx by'
    else if width < bx + 8 + 8 then
      if height < by' + 8 + 8 then .ranOut (by' + 8)
      else scanBlocks width height eligible fuel true 0 (by' + 8)
    else scanBlocks width height eligible fuel true (bx + 8) by'

/-- The number of full blocks, `(W div 8)·(H div 8)` (44_scanner.md R192(a)). -/
def State.blockCount (s : State) : Nat := (s.width.toNat / 8) * (s.height.toNat / 8)

/-- The cursor's `(x, y) = (0, 0)`: the DC position of its block has not been examined (10_state.md R29). -/
def State.dcAhead (s : State) : Bool := s.scanX == 0 && s.scanY == 0

/-- The eligibility of a plane word at the scanner's order (44_scanner.md R192). -/
def State.eligibleAt (s : State) (order a : Nat) : Bool := isEligible s.num (s.planeAt a) order

/-- `advance()` (44_scanner.md R192): the plane address of the next eligible DC word, or `none` for the raise of
EndOfMedium; the state beside it holds the cursor and EOM as the procedure leaves them. -/
def State.advance (s : State) : State × Option Nat :=
  if s.eom then (s, none)
  else if s.width.toNat < 8 ∨ s.height.toNat < 8 then (s.setEom, none)
  else
    match scanBlocks s.width.toNat s.height.toNat (s.eligibleAt s.order.toNat) s.blockCount s.dcAhead
        s.scanBx.toNat s.scanBy.toNat with
    | .accepted bx by' => (s.setCursor bx by' 1, some (planeAddr s.width.toNat by' bx))
    | .ranOut by' => ((s.setCursor 0 by' 0).setEom, none)

/-- SCAN.INIT `order` (44_scanner.md R191). -/
def execScanInit (order : Nat) (s : State) : Result :=
  .next (if s.orderLegal order then ((s.setOrder order).rewind).ret 0 else s.raise .invalidArgument 0)

/-- SCAN.ADV (44_scanner.md R193). -/
def execScanAdv (s : State) : Result :=
  s.onScan (match s.advance with
    | (t, some a) => t.ret (natWord a)
    | (t, none) => t.raise .endOfMedium 0)

/-- Bit `order` of the magnitude of a number (44_scanner.md R194). -/
def carriedBit (f : NumFormat) (v : Word) (order : Nat) : Bool := (magnitude f v).testBit order

/-- SCAN.RDBIT (44_scanner.md R194). -/
def execScanRdbit (s : State) : Result :=
  s.onScan (match s.advance with
    | (t, some a) => t.ret (bitWord (carriedBit t.num (t.planeAt a) t.order.toNat))
    | (t, none) => t.raise .endOfMedium 0)

/-- Bit `o` of the integer `m` set or cleared (44_scanner.md R195). -/
def withBit (m o : Nat) (bit : Bool) : Nat := if bit then m ||| 2 ^ o else m ^^^ (m &&& 2 ^ o)

/-- The number that carries `bit` at `order` in place of `v`: sign, magnitude and fraction taken apart, the magnitude's
bit written, and put together again (44_scanner.md R195). -/
def rewriteBit (f : NumFormat) (v : Word) (order : Nat) (bit : Bool) : Word :=
  let m := magnitude f v
  let frac := fsub f (fabs f v) (ofInt f m)
  let r := fadd f (ofInt f (withBit m order bit)) frac
  if isNegative f v then r ||| signBit f else r

/-- `writeBit(bit)` (44_scanner.md R195): whether the bit flipped, or `none` for EndOfMedium with nothing written. -/
def State.writeBit (s : State) (bit : Bool) : State × Option Bool :=
  match s.advance with
  | (t, none) => (t, none)
  | (t, some a) =>
    let v := t.planeAt a
    let flipped := carriedBit t.num v t.order.toNat != bit
    ((t.setPlaneAt a (rewriteBit t.num v t.order.toNat bit)).countBit flipped, some flipped)

/-- SCAN.WRBIT `bit` (44_scanner.md R195). -/
def execScanWrbit (bit : Bool) (s : State) : Result :=
  s.onScan (match s.writeBit bit with
    | (t, some flipped) => t.ret (bitWord flipped)
    | (t, none) => t.raise .endOfMedium 0)

/-- SCAN.STAT (44_scanner.md R196): `CHG / ENC` as a number, `+0.0` when nothing was encountered. -/
def execScanStat (s : State) : Result :=
  .next (s.ret (if s.enc = 0 then 0 else fdiv s.num (ofInt s.num s.chg.toNat) (ofInt s.num s.enc.toNat)))

/-- The loop of SCAN.WRBUF (44_scanner.md R197): `left` bits still to write, `t` written so far; `some t` when the medium
ran out after `t` bits. -/
def State.writeSeq (q : BitSeq) : (left t : Nat) → State → State × Option Nat
  | 0, _, s => (s, none)
  | left + 1, t, s =>
    match s.writeBit (q.get t) with
    | (s', none) => (s', some t)
    | (s', some _) => State.writeSeq q left (t + 1) s'

/-- SCAN.WRBUF `s` (44_scanner.md R197): not undone on EndOfMedium, RESULT counts the bits written. -/
def execScanWrbuf (i : SeqId) (s : State) : Result :=
  s.onScan (match State.writeSeq (s.seq i) (s.seq i).length 0 s with
    | (t, none) => t.ret (natWord (s.seq i).length)
    | (t, some n) => t.raise .endOfMedium (natWord n))

/-- The loop of SCAN.RDBUF (44_scanner.md R198): `room` is `BITCAP - LEN[s]`, checked before the scanner moves; `n` bits
appended so far. EndOfMedium is absorbed and completes the command. -/
def State.readSeq (i : SeqId) : (room n : Nat) → State → State
  | 0, n, s => s.raise .bufOverflow (natWord n)
  | room + 1, n, s =>
    match s.advance with
    | (t, none) => t.ret (natWord n)
    | (t, some a) =>
      let bit := carriedBit t.num (t.planeAt a) t.order.toNat
      State.readSeq i room (n + 1) (t.setSeq i ((t.seq i).put (t.seq i).length 1 bit.toNat))

/-- SCAN.RDBUF `s` (44_scanner.md R198). -/
def execScanRdbuf (i : SeqId) (s : State) : Result :=
  s.onScan (State.readSeq i (s.bitCap - (s.seq i).length) 0 s)

/-- The plane addresses of the DC words of all full blocks, in row-major block order (44_scanner.md R199, R200). -/
def dcAddrs (width height : Nat) : List Nat :=
  (List.range (height / 8)).flatMap fun jy =>
    (List.range (width / 8)).map fun ix => planeAddr width (8 * jy) (8 * ix)

/-- SCAN.COUNT `order` (44_scanner.md R199): the scanner state is neither used nor changed. -/
def execScanCount (order : Nat) (s : State) : Result :=
  s.onPlane (if s.orderLegal order then
      s.ret (natWord ((dcAddrs s.width.toNat s.height.toNat).countP (s.eligibleAt order)))
    else s.raise .invalidArgument 0)

end Sys2Proof.Machine
end

