-- ==== Sys2Proof/Machine/Transform.lean ====
section
/-! DEFINITION. Image dimensions, block load and store, and the block transform (40_block_transform.md). -/

namespace Sys2Proof.Machine

/-- 128.0, `LEVEL_SHIFT` (00_scope.md R5). -/
def levelShift (f : NumFormat) : Word := ofInt f (Config.levelShift : Nat)

/-- The inner product of 40_block_transform.md R107: fifteen roundings, ascending `k`, starting from the first product. -/
def dot8 (f : NumFormat) (a b : Fin 8 → Word) : Word :=
  [1, 2, 3, 4, 5, 6, 7].foldl (fun acc k => fadd f acc (fmul f (a k) (b k))) (fmul f (a 0) (b 0))

/-- `forward(block)` (40_block_transform.md R111): `D = B - 128`, `T = C·D`, `F = T·Cᵀ`. -/
def forwardDct (p : Params) (b : Block) : Block :=
  let d := blockOf fun r c => fsub p.num (cell b r c) (levelShift p.num)
  let t := blockOf fun u c => dot8 p.num (fun k => p.cos u k) (fun k => cell d k c)
  blockOf fun u v => dot8 p.num (fun k => cell t u k) (fun k => p.cos v k)

/-- `reverse(block)` (40_block_transform.md R112): `T = Cᵀ·F`, `X = T·C`, plus 128. -/
def inverseDct (p : Params) (b : Block) : Block :=
  let t := blockOf fun r v => dot8 p.num (fun k => p.cos k r) (fun k => cell b k v)
  let x := blockOf fun r c => dot8 p.num (fun k => cell t r k) (fun k => p.cos k c)
  blockOf fun r c => fadd p.num (cell x r c) (levelShift p.num)

/-- `Qf[r][c] = ofInt(Q[r][c])` (40_block_transform.md R106). -/
def quantNumber (p : Params) (r c : Fin 8) : Word := ofInt p.num (p.quant r c : Nat)

/-- `quantize(block)` (40_block_transform.md R113): one division a cell, no rounding to an integer. -/
def quantize (p : Params) (b : Block) : Block :=
  blockOf fun r c => fdiv p.num (cell b r c) (quantNumber p r c)

/-- `dequantize(block)` (40_block_transform.md R114): one product a cell. -/
def dequantize (p : Params) (b : Block) : Block :=
  blockOf fun r c => fmul p.num (cell b r c) (quantNumber p r c)

/-- CFG.DIM `w, h` (40_block_transform.md R108). -/
def execCfgDim (w h : Nat) (s : State) : Result :=
  .next (if s.planeWords < w * h then s.raise .invalidArgument 0
    else ((s.setDims w h).rewind).ret 0)

/-- The block at offset `(x0, y0)`: plane words inside the plane, `+0` outside (40_block_transform.md R109). -/
def State.loadBlock (s : State) (x0 y0 : Nat) : Block :=
  blockOf fun r c => if s.insidePlane x0 y0 r c then s.planeAt (s.cellAddr x0 y0 r c) else 0

/-- Cell `k` of the buffer written to its plane address, or dropped outside the plane (40_block_transform.md R110). -/
def State.storeCell (s : State) (x0 y0 : Nat) (k : Fin 64) : State :=
  let r : Fin 8 := ⟨k.val / 8, by omega⟩
  let c : Fin 8 := ⟨k.val % 8, by omega⟩
  if s.insidePlane x0 y0 r c then s.setPlaneAt (s.cellAddr x0 y0 r c) (cell s.blk r c) else s

/-- Every cell of the buffer written back, in ascending index (40_block_transform.md R110). -/
def State.storeBlock (s : State) (x0 y0 : Nat) : State :=
  (List.finRange 64).foldl (fun t k => t.storeCell x0 y0 k) s

/-- BLK.LOAD `x0, y0` (40_block_transform.md R109). -/
def execBlkLoad (x0 y0 : Nat) (s : State) : Result := s.onPlane ((s.setBlk (s.loadBlock x0 y0)).ret 0)

/-- BLK.STORE `x0, y0` (40_block_transform.md R110). -/
def execBlkStore (x0 y0 : Nat) (s : State) : Result := s.onPlane ((s.storeBlock x0 y0).ret 0)

/-- A transform command: all 64 cells of `BLK` from the old ones, no error for any input (10_state.md R22;
40_block_transform.md R102). -/
def State.transform (s : State) (f : Params → Block → Block) : Result :=
  .next ((s.setBlk (f s.params s.blk)).ret 0)

/-- DCT.FWD (40_block_transform.md R111). -/
def execDctFwd (s : State) : Result := s.transform forwardDct

/-- DCT.INV (40_block_transform.md R112). -/
def execDctInv (s : State) : Result := s.transform inverseDct

/-- QNT (40_block_transform.md R113). -/
def execQnt (s : State) : Result := s.transform quantize

/-- DQNT (40_block_transform.md R114). -/
def execDqnt (s : State) : Result := s.transform dequantize

/-- XFM.FWD (40_block_transform.md R115): the forward transform, then the quantization. -/
def execXfmFwd (s : State) : Result := s.transform fun p b => quantize p (forwardDct p b)

/-- XFM.INV (40_block_transform.md R116): the dequantization, then the inverse transform. -/
def execXfmInv (s : State) : Result := s.transform fun p b => inverseDct p (dequantize p b)

end Sys2Proof.Machine
end

