-- ==== Sys2Proof/Machine/Dispatch.lean ====
section
/-! DEFINITION. The dispatch of a decoded command to its meaning, one arm a command (30_encoding.md R80). -/

namespace Sys2Proof.Machine

/-- The effect of a decoded command, completion included (30_encoding.md R78; 60_exceptions.md R243). -/
def exec (i : Instr) (s : State) : Host.Outcome State Fault Refusal :=
  match i with
  | .cfgDim w h => Sys2Proof.Machine.execCfgDim w h s
  | .blkLoad x0 y0 => Sys2Proof.Machine.execBlkLoad x0 y0 s
  | .blkStore x0 y0 => Sys2Proof.Machine.execBlkStore x0 y0 s
  | .dctFwd => Sys2Proof.Machine.execDctFwd s
  | .dctInv => Sys2Proof.Machine.execDctInv s
  | .qnt => Sys2Proof.Machine.execQnt s
  | .dqnt => Sys2Proof.Machine.execDqnt s
  | .xfmFwd => Sys2Proof.Machine.execXfmFwd s
  | .xfmInv => Sys2Proof.Machine.execXfmInv s
  | .elig k order => Sys2Proof.Machine.execElig k order s
  | .bbNew q => Sys2Proof.Machine.execBbNew q s
  | .bbGet q n => Sys2Proof.Machine.execBbGet q n s
  | .bbSet q n bit => Sys2Proof.Machine.execBbSet q n bit s
  | .bbClr q n => Sys2Proof.Machine.execBbClr q n s
  | .bbSetr q lo hi => Sys2Proof.Machine.execBbSetr q lo hi s
  | .bbClrr q lo hi => Sys2Proof.Machine.execBbClrr q lo hi s
  | .bbApp q bit => Sys2Proof.Machine.execBbApp q bit s
  | .bbAppall d q => Sys2Proof.Machine.execBbAppall d q s
  | .bbLen q => Sys2Proof.Machine.execBbLen q s
  | .hamEnc n => Sys2Proof.Machine.execHamEnc n s
  | .hamDec w => Sys2Proof.Machine.execHamDec w s
  | .hamPutb q byte => Sys2Proof.Machine.execHamPutb q byte s
  | .hamGetb q k => Sys2Proof.Machine.execHamGetb q k s
  | .scanInit order => Sys2Proof.Machine.execScanInit order s
  | .scanAdv => Sys2Proof.Machine.execScanAdv s
  | .scanRdbit => Sys2Proof.Machine.execScanRdbit s
  | .scanWrbit bit => Sys2Proof.Machine.execScanWrbit bit s
  | .scanStat => Sys2Proof.Machine.execScanStat s
  | .scanWrbuf q => Sys2Proof.Machine.execScanWrbuf q s
  | .scanRdbuf q => Sys2Proof.Machine.execScanRdbuf q s
  | .scanCount order => Sys2Proof.Machine.execScanCount order s
  | .frmCap n => Sys2Proof.Machine.execFrmCap n s

end Sys2Proof.Machine
end

