-- ==== Sys2Proof/Machine/Port.lean ====
section
/-! DEFINITION. The port: the register map (10_state.md R33) and the transactions that run no command (20_memory.md
R50 to R55). -/

namespace Sys2Proof.Machine

/-- The address of `CMD` (10_state.md R33). -/
def cmdAddr : PortAddr := 0x00

/-- The first address of `BLK`, 64 words (10_state.md R33). -/
def blkBase : Nat := 0x40

/-- The first address of `PLANE` (10_state.md R33). -/
def planeBase : Nat := 0x40000000

/-- The index of the `BLK` cell at a port address, if the address is one (10_state.md R21). -/
def blkIndex (addr : PortAddr) : Option (Fin 64) :=
  if h : blkBase ≤ addr.toNat ∧ addr.toNat < blkBase + 64 then
    some ⟨addr.toNat - blkBase, by have := h.2; omega⟩
  else none

/-- The plane address at a port address, if the address is one (10_state.md R32). -/
def State.planeIndex (s : State) (addr : PortAddr) : Option Nat :=
  if planeBase ≤ addr.toNat ∧ addr.toNat < planeBase + s.planeWords then some (addr.toNat - planeBase) else none

/-- The registers at `0x01` to `0x11`, zero-extended (10_state.md R33). `CMD` is write-only, and there is a length for each
sequence (R30), so none at `0x0E` where `NBUF` is 1. -/
def State.register (s : State) (addr : Nat) : Option Word :=
  match addr with
  | 0x01 => some s.status
  | 0x02 => some s.result
  | 0x03 => some (s.seqNo.setWidth 64)
  | 0x04 => some (s.width.setWidth 64)
  | 0x05 => some (s.height.setWidth 64)
  | 0x06 => some (s.order.setWidth 64)
  | 0x07 => some (s.scanBx.setWidth 64)
  | 0x08 => some (s.scanBy.setWidth 64)
  | 0x09 => some (s.scanX.setWidth 64)
  | 0x0A => some (s.scanY.setWidth 64)
  | 0x0B => some (s.enc.setWidth 64)
  | 0x0C => some (s.chg.setWidth 64)
  | 0x0D => some (s.seq0.len.setWidth 64)
  | 0x0E => if s.widths.hasSeq .s1 then some (s.seq1.len.setWidth 64) else none
  | 0x0F => some idWord
  | 0x10 => some (natWord s.planeWords)
  | 0x11 => some (natWord s.bitCap)
  | _ => none

/-- The constants at `0x80` to `0x106` (10_state.md R31, R33), zero-extended. -/
def paramConstantAt (p : Params) (addr : Nat) : Option Word :=
  if h : 0x80 ≤ addr ∧ addr < 0xC0 then some (p.ctab[addr - 0x80]'(by omega))
  else if h : 0xC0 ≤ addr ∧ addr < 0x100 then some ((p.qtab[addr - 0xC0]'(by omega)).setWidth 64)
  else if h : 0x100 ≤ addr ∧ addr < 0x104 then some ((p.hamG[addr - 0x100]'(by omega)).setWidth 64)
  else if h : 0x104 ≤ addr ∧ addr < 0x107 then some ((p.hamH[addr - 0x104]'(by omega)).setWidth 64)
  else none

/-- What a read of a port address returns; `none` is `PortError` (20_memory.md R52, R55; 10_state.md R33). -/
def State.portValue (s : State) (addr : PortAddr) : Option Word :=
  match blkIndex addr, s.planeIndex addr with
  | some k, _ => some s.blk[k]
  | none, some a => some (s.planeAt a)
  | none, none => (s.register addr.toNat).or (paramConstantAt s.params addr.toNat)

/-- `PortRead(addr)` changes no state of the block (20_memory.md R52); the response is kept (log 2). -/
def State.portRead (s : State) (addr : PortAddr) : State :=
  s.respond (match s.portValue addr with
    | some w => .readData w
    | none => .readError)

/-- `PortWrite(addr, data)` to any address but `CMD` (20_memory.md R53(b) to (d)): all 64 bits are stored as given. -/
def State.portStore (s : State) (addr : PortAddr) (data : Word) : State :=
  match blkIndex addr, s.planeIndex addr with
  | some k, _ => (s.setBlk (s.blk.set k data)).respond .writeDone
  | none, some a => (s.setPlaneAt a data).respond .writeDone
  | none, none => s.respond .writeError

/-- `Reset` (70_reset_and_hazards.md R260): the reset state, with fresh unspecified contents of `BLK` and `PLANE`
(log 6). The host's moves and the responses are not the block's and stay. -/
def State.applyReset (s : State) : State := State.afterReset s.params (s.epoch + 1) s.pending s.responses

/-- Every `CMD` write begins so: the port accepts the word and `SEQ` counts it, whether or not it decodes (10_state.md
R24; 60_exceptions.md R243). -/
def State.beginCommand (s : State) : State := s.bumpSeq.respond .writeDone

end Sys2Proof.Machine
end

