-- ==== Sys2Proof/Machine/Command.lean ====
section
/-! DEFINITION. One move of the host (00_scope.md R10): what a `CMD` write does with its word. -/

namespace Sys2Proof.Machine

/-- The command word `c`, the data of a `CMD` write (30_encoding.md R78; 60_exceptions.md R240, R243): a decoded command
is performed, any other word raises IllegalCommand and changes nothing else. -/
def performWord (c : Word) (s : State) : Result :=
  match decode s.widths c with
  | .ok i => exec i s
  | .error _ => .next (s.raise .illegalCommand 0)

/-- One move (00_scope.md R10; 20_memory.md R52, R53). -/
def performMove (m : HostMove) (s : State) : Result :=
  match m with
  | .reset => .next s.applyReset
  | .portRead addr => .next (s.portRead addr)
  | .portWrite addr data => if addr = cmdAddr then performWord data s.beginCommand else .next (s.portStore addr data)

/-- The host's moves with the move of writing the word of an instruction to `CMD` put first: the word's bits are `w`, the
bits at and above `nbits` zero (30_encoding.md R75). -/
def commandMove (nbits w : Nat) : HostMove := .portWrite cmdAddr (BitVec.ofNat 64 (w % 2 ^ nbits))

end Sys2Proof.Machine
end

