-- ==== Sys2Proof/Machine/Step.lean ====
section
/-! DEFINITION. One step of the machine: the host's next move (00_scope.md R2, R10), or nothing while the host makes none. -/

namespace Sys2Proof.Machine

/-- One step. With no move pending the block is idle and keeps all state (60_exceptions.md R252; log 18). -/
def step (s : State) : Host.Outcome State Fault Refusal :=
  match s.pending with
  | [] => .next s
  | m :: ms => performMove m (s.setPending ms)

/-- `s` with the word of an instruction as the data of the host's next move, a write to `CMD` (log 1). The block fetches
no instructions: the data of a `CMD` write is the command (10_state.md R24; 20_memory.md R67). -/
def State.withFetchWord (s : State) (nbits w : Nat) : State := s.setPending (commandMove nbits w :: s.pending)

end Sys2Proof.Machine
end

