-- ==== Sys2Proof/Machine/HostSequences.lean ====
section
/-! DEFINITION. The pseudo-instructions of 30_encoding.md R84 and the host procedures of 43_hamming.md R178, R179 and
45_framing.md R221 to R223. The block knows none of them: the message lives in the host, which issues commands and reads
ERR and RESULT after each (60_exceptions.md R243). -/

namespace Sys2Proof.Machine

/-- A message byte (20_memory.md R56). -/
abbrev MessageByte := BitVec 8

/-- The host move that issues a command to a block whose operands have the widths `w`. -/
def issue (w : Widths) (i : Instr) : HostMove := .portWrite cmdAddr (encode w i)

/-- What a host procedure comes to. -/
inductive HostRun (α : Type) where
  /-- every command completed; the block is left in `s`, the host holds `value` -/
  | done (s : State) (value : α)
  /-- the last command ended with an error: `s.err` says which, and the procedure ends there -/
  | raised (s : State)
  /-- an operand of the next command does not fit its field on this block, so no word stands for it (30_encoding.md R83) -/
  | unencodable (s : State)
  /-- the model stopped (log 10) -/
  | stopped
deriving DecidableEq, Repr

/-- The host goes on with what it holds, unless the procedure has ended. -/
def HostRun.bind {α β : Type} (r : HostRun α) (next : State → α → HostRun β) : HostRun β :=
  match r with
  | .done s value => next s value
  | .raised s => .raised s
  | .unencodable s => .unencodable s
  | .stopped => .stopped

/-- One command issued, if a word stands for it (30_encoding.md R83). -/
def hostExec (i : Instr) (s : State) : HostRun Unit :=
  if i.wellFormed s.widths then
    match exec i s with
    | .next t => .done t ()
    | .fault _ => .stopped
    | .refused _ => .stopped
  else .unencodable s

/-- One command issued and completed: the host holds its RESULT, or knows that it raised (60_exceptions.md R243). -/
def hostCommand (i : Instr) (s : State) : HostRun Word :=
  (hostExec i s).bind fun t _ => if t.err = .ok then .done t t.result else .raised t

/-- Commands issued one after the other, up to the first that raises. -/
def hostCommands : List Instr → State → HostRun Unit
  | [], s => .done s ()
  | i :: rest, s => (hostCommand i s).bind fun t _ => hostCommands rest t

/-! Encoding and decoding a message. -/

/-- `ENCMSG s, b0, ...` (30_encoding.md R84; 43_hamming.md R178). -/
def encMsg (q : SeqId) (bytes : List MessageByte) : List Instr := bytes.map fun b => .hamPutb q b.toNat

/-- `HAM.GETB` for each window of `ks`, the RESULT bytes collected (43_hamming.md R179). -/
def getBytes (q : SeqId) : List Nat → State → HostRun (List MessageByte)
  | [], s => .done s []
  | k :: rest, s =>
    (hostCommand (.hamGetb q k) s).bind fun t r =>
      (getBytes q rest t).bind fun u bytes => .done u (BitVec.ofNat 8 r.toNat :: bytes)

/-- How many complete windows a sequence of `len` bits has (43_hamming.md R179). -/
def windowsOf (len : Nat) : Nat := len / Config.bitsPerByteEnc

/-- `DECMSG s`: BB.LEN gives `L`, then `HAM.GETB s, k` for `k = 0 .. (L div 14) - 1` (30_encoding.md R84; 43_hamming.md R179). -/
def decMsg (q : SeqId) (s : State) : HostRun (List MessageByte) :=
  (hostCommand (.bbLen q) s).bind fun t len => getBytes q (List.range (windowsOf len.toNat)) t

/-! The whole plane. -/

/-- The origins of the full blocks of a `w` by `h` plane, row-major (00_scope.md R11; 40_block_transform.md R118). -/
def fullBlocks (w h : Nat) : List (Nat × Nat) :=
  (List.range (h / 8)).flatMap fun jy => (List.range (w / 8)).map fun ix => (8 * ix, 8 * jy)

/-- Every full block loaded, transformed by `i` and stored (40_block_transform.md R118). -/
def transformPlane (i : Instr) (w h : Nat) : List Instr :=
  (fullBlocks w h).flatMap fun b => [.blkLoad b.1 b.2, i, .blkStore b.1 b.2]

/-- `FWDPLANE` (30_encoding.md R84). -/
def fwdPlane (w h : Nat) : List Instr := transformPlane .xfmFwd w h

/-- `INVPLANE` (30_encoding.md R84). -/
def invPlane (w h : Nat) : List Instr := transformPlane .xfmInv w h

/-! Imprint. -/

/-- A message with its terminator of four zero bytes (45_framing.md R221). -/
def withTerminator (bytes : List MessageByte) : List MessageByte := bytes ++ List.replicate Config.termBytes 0

/-- A list cut into pieces of `size`, the last one shorter; no piece where `size` is 0. -/
def piecesOf {α : Type} (size : Nat) (l : List α) : List (List α) :=
  (List.range ((l.length + size - 1) / size)).map fun k => (l.drop (k * size)).take size

/-- The commands of `imprint` on a block whose sequences hold `cap` bits (45_framing.md R222; 42_bit_sequence.md R162;
log 22). One piece is the listed sequence of R222, IMPRINT of 30_encoding.md R84; a longer message goes on with BB.NEW, the next
piece and SCAN.WRBUF, with no further SCAN.INIT. Where a sequence holds no byte, HAM.PUTB raises BufOverflow. -/
def imprintCommands (cap order : Nat) (bytes : List MessageByte) : List Instr :=
  match piecesOf (max 1 (windowsOf cap)) (withTerminator bytes) with
  | [] => []
  | first :: rest =>
    .bbNew .s0 :: encMsg .s0 first ++ [.scanInit order, .scanWrbuf .s0] ++
      rest.flatMap fun piece => .bbNew .s0 :: encMsg .s0 piece ++ [.scanWrbuf .s0]

/-- `imprint(image, message, order)` on the plane of `s` (45_framing.md R222): it raises EndOfMedium where the medium is too
small, with the plane partly written, and InvalidArgument where the order is out of range. -/
def imprint (order : Nat) (bytes : List MessageByte) (s : State) : HostRun Unit :=
  hostCommands (imprintCommands s.bitCap order bytes) s

/-- What a host checks first if it wants the plane untouched: FRM.CAP of SCAN.COUNT (45_framing.md R222, R224(c)). -/
def capacityAt (order : Nat) (s : State) : HostRun Int :=
  (hostCommand (.scanCount order) s).bind fun t n =>
    (hostCommand (.frmCap n.toNat) t).bind fun u r => .done u r.toInt

/-! Extract. -/

/-- The message in the decoded bytes: cut at the first zero byte, all of them if none is zero (45_framing.md R223). -/
def cutAtZero (bytes : List MessageByte) : List MessageByte := bytes.takeWhile fun b => b != 0

/-- The bits of sequence `q` at the indices `is`, read with BB.GET (42_bit_sequence.md R152). -/
def readBits (q : SeqId) : List Nat → State → HostRun (List Bool)
  | [], s => .done s []
  | i :: rest, s =>
    (hostCommand (.bbGet q i) s).bind fun t r => (readBits q rest t).bind fun u bits => .done u ((r != 0) :: bits)

/-- Sequence 0 emptied but for its bits at the indices `is`, which BB.APP puts back. -/
def carryBits (is : List Nat) (s : State) : HostRun Unit :=
  (readBits .s0 is s).bind fun t bits => hostCommands (.bbNew .s0 :: bits.map (Instr.bbApp .s0)) t

/-- SCAN.RDBUF and DECMSG until the medium ends (45_framing.md R223). Where the sequence fills first, the host decodes it,
empties it and issues SCAN.RDBUF again (44_scanner.md R198), keeping the bits of the window that is not complete (log 22);
`rounds` bounds how often. -/
def readMedium : (rounds : Nat) → State → HostRun (List MessageByte)
  | 0, s => .done s []
  | rounds + 1, s =>
    (hostExec (.scanRdbuf .s0) s).bind fun t _ =>
      if t.err = .bufOverflow then
        (decMsg .s0 t).bind fun u bytes =>
          (hostCommand (.bbLen .s0) u).bind fun v len =>
            (carryBits ((List.range len.toNat).drop (windowsOf len.toNat * Config.bitsPerByteEnc)) v).bind fun w _ =>
              (readMedium rounds w).bind fun x more => .done x (bytes ++ more)
      else decMsg .s0 t

/-- `extract(image, order)` on the plane of `s` (45_framing.md R223), EXTRACT of 30_encoding.md R84: SCAN.INIT, BB.NEW, then
every bit to the end of the medium, decoded, and cut at the first zero byte. Each round but the last reads a position, so one
round more than there are full blocks is enough. -/
def extract (order : Nat) (s : State) : HostRun (List MessageByte) :=
  (hostCommands [.scanInit order, .bbNew .s0] s).bind fun t _ =>
    (readMedium (t.blockCount + 1) t).bind fun u bytes => .done u (cutAtZero bytes)

end Sys2Proof.Machine
end

