-- ==== Sys2Proof/Safety.lean ====
section
/-! DEFINITION. What the spec says of every reachable state (10_state.md R34), and runs (70_reset_and_hazards.md R276). -/

namespace Sys2Proof.Machine

/-- 10_state.md R34(a) and (c), the part a plane command relies on (20_memory.md R58). -/
def State.PlaneLegal (s : State) : Prop := s.dimsFit = true ∧ s.cursorFits = true

/-- 10_state.md R34(c): the block origin is a multiple of 8 in both coordinates, and lies on a full block while the scan
is not at its end and a full block exists. -/
def State.CursorWf (s : State) : Prop :=
  s.scanBx.toNat % 8 = 0 ∧ s.scanBy.toNat % 8 = 0 ∧ s.cursorFits = true

/-- 10_state.md R34(d): the intra-block cursor is `(0, 0)` or `(1, 0)`. -/
def State.IntraWf (s : State) : Prop := s.scanY = 0 ∧ (s.scanX = 0 ∨ s.scanX = 1)

/-- How many full blocks the cursor has passed (44_scanner.md R192; the reason of 10_state.md R29 that the counters
cannot overflow). -/
def State.blocksPassed (s : State) : Nat :=
  (s.scanBy.toNat / 8) * (s.width.toNat / 8) + s.scanBx.toNat / 8 + s.scanX.toNat

/-- 10_state.md R34(e) with R29's reason: `CHG <= ENC`, and no more bits were written than blocks were passed. -/
def State.CountersWf (s : State) : Prop := s.chg.toNat ≤ s.enc.toNat ∧ s.enc.toNat ≤ s.blocksPassed

/-- 10_state.md R34(f), 42_bit_sequence.md R150: the length is at most `BITCAP` (`cap`) and every bit at or beyond it is 0. -/
def BitSeq.Wf (cap : Nat) (q : BitSeq) : Prop := q.length ≤ cap ∧ ∀ i, q.length ≤ i → q.get i = false

/-- `WIDTH` and `HEIGHT` have `DIM_BITS` bits (00_scope.md R5; 10_state.md R27). -/
def State.DimsWf (s : State) : Prop := s.width.toNat < 2 ^ s.widths.dimBits.val ∧ s.height.toNat < 2 ^ s.widths.dimBits.val

/-- The invariants of 10_state.md R34, the canonical form of plane memory (log 5), and what the source gives of `QTAB`
(40_block_transform.md R106). R34(b), `ORDER <= 7`, holds by the register's width; `order` says it for `ORDER_MAX`, and
`dimBits` says of `DIM_BITS` what the default's 16 bits say of themselves. -/
structure State.Inv (s : State) : Prop where
  params : s.params.Legal
  order : s.order.toNat ≤ s.orderMax
  plane : Memory.wf s.planeWords s.plane = true
  dimBits : s.DimsWf
  dims : s.dimsFit = true
  cursor : s.CursorWf
  intra : s.IntraWf
  counters : s.CountersWf
  seq0 : s.seq0.Wf s.bitCap
  seq1 : s.seq1.Wf s.bitCap

/-! The scan as an enumeration (44_scanner.md R200). -/

/-- The DC words the scan has still to examine, in order (44_scanner.md R192, R200); none after the end of the medium. -/
def State.ahead (s : State) : List Nat :=
  if s.eom then [] else (dcAddrs s.width.toNat s.height.toNat).drop s.blocksPassed

/-- Those of them that are eligible at `ORDER`: the positions the scan will accept, in order (44_scanner.md R200). -/
def State.eligibleAhead (s : State) : List Nat := s.ahead.filter (s.eligibleAt s.order.toNat)

/-- The positions of a whole scan at `order`, from the first block on (44_scanner.md R200, R202). -/
def State.positions (s : State) (order : Nat) : List Nat :=
  (dcAddrs s.width.toNat s.height.toNat).filter (s.eligibleAt order)

/-- The cursor just past the DC word at plane address `a`: `(bx, by)` is its block, `(x, y)` is `(1, 0)` (44_scanner.md R192(b)). -/
def State.pastWord (s : State) (a : Nat) : State := s.setCursor (a % s.width.toNat) (a / s.width.toNat) 1

/-- The cursor just past the position `j` of those still ahead, counted from 0 (44_scanner.md R200). -/
def State.pastNth (s : State) (j : Nat) : State := s.pastWord (s.eligibleAhead.getD j 0)

/-- The scan at its end (44_scanner.md R192(b); 60_exceptions.md R251): the cursor past the last block row and `EOM = 1`;
with `EOM` already 1, or no full block at all, the cursor is untouched. -/
def State.atEnd (s : State) : State :=
  if s.eom = true ∨ s.width.toNat < 8 ∨ s.height.toNat < 8 then s.setEom
  else (s.setCursor 0 (8 * (s.height.toNat / 8)) 0).setEom

/-- The commands of `is`, one after the other, each from the state the one before left (20_memory.md R64). -/
def runCommands : List Instr → State → Result
  | [], s => .next s
  | i :: rest, s =>
    match exec i s with
    | .next t => runCommands rest t
    | .fault f => .fault f
    | .refused r => .refused r

/-- `abs(v)` is a finite number in `[lo, hi)`, read off its units (41_order_predicate.md R141). -/
def absInRange (f : NumFormat) (v : Word) (lo hi : Nat) : Prop :=
  expField f v ≠ f.expMax ∧ lo * unitScale f ≤ units f v ∧ units f v < hi * unitScale f

/-- `v` is a finite number. -/
def isFinite (f : NumFormat) (v : Word) : Prop := expField f v ≠ f.expMax

/-- Twice the least magnitude, in units, that rounds to an infinity: the greatest finite number and half a step more. -/
def overflowTwice (f : NumFormat) : Nat := (2 ^ (f.fracBits + 2) - 1) * 2 ^ (f.expMax - 2)

/-- `v` is the exact result `n / den` (in units) rounded to the format, to nearest, ties to even: the infinity of its sign
where it is too large, else a finite number no finite number is nearer than, and with an even fraction where another is
equally near (40_block_transform.md R101). -/
def RoundsTo (f : NumFormat) (n : Int) (den : Nat) (v : Word) : Prop :=
  (overflowTwice f * den ≤ 2 * n.natAbs → isInf f v = true ∧ isNegative f v = decide (n < 0)) ∧
  (2 * n.natAbs < overflowTwice f * den →
    isFinite f v ∧
    ∀ w : Word, isFinite f w →
      (signedUnits f v * den - n).natAbs ≤ (signedUnits f w * den - n).natAbs ∧
      ((signedUnits f v * den - n).natAbs = (signedUnits f w * den - n).natAbs →
        signedUnits f w ≠ signedUnits f v → fracField f v % 2 = 0))

/-- `s[i]` of the syndrome `H·w`, the parity of the products of a row and the word (43_hamming.md R172, R174). -/
def parityOf (p : Params) (w : Nat) (i : Fin 3) : Bool :=
  decide ((List.range 7).countP (fun j => p.hBit i j && w.testBit j) % 2 = 1)

/-- The matrices are those of 43_hamming.md R171. -/
def DefaultCode (p : Params) : Prop := p.hamG = defaultHamG ∧ p.hamH = defaultHamH

/-- The SCAN commands (30_encoding.md R80, family 5). -/
def isScanCommand (i : Instr) : Bool :=
  match i with
  | .cfgDim _ _ => false
  | .blkLoad _ _ => false
  | .blkStore _ _ => false
  | .dctFwd => false
  | .dctInv => false
  | .qnt => false
  | .dqnt => false
  | .xfmFwd => false
  | .xfmInv => false
  | .elig _ _ => false
  | .bbNew _ => false
  | .bbGet _ _ => false
  | .bbSet _ _ _ => false
  | .bbClr _ _ => false
  | .bbSetr _ _ _ => false
  | .bbClrr _ _ _ => false
  | .bbApp _ _ => false
  | .bbAppall _ _ => false
  | .bbLen _ => false
  | .hamEnc _ => false
  | .hamDec _ => false
  | .hamPutb _ _ => false
  | .hamGetb _ _ => false
  | .scanInit _ => true
  | .scanAdv => true
  | .scanRdbit => true
  | .scanWrbit _ => true
  | .scanStat => true
  | .scanWrbuf _ => true
  | .scanRdbuf _ => true
  | .scanCount _ => true
  | .frmCap _ => false

/-! Runs. -/

/-- The reset state of a block with parameters `p`, the host's moves of a run placed before it (70_reset_and_hazards.md R276). -/
def State.resetWith (p : Params) (moves : List HostMove) : State := State.afterReset p 0 moves []

/-- The states of the runs that begin at reset: any legal parameters, any moves, any number of steps. -/
inductive State.Reachable : State → Prop where
  | start (p : Params) (moves : List HostMove) : p.Legal → State.Reachable (State.resetWith p moves)
  | step (s t : State) : State.Reachable s → Machine.step s = .next t → State.Reachable t

/-- Is a response the answer to a port read? -/
def Response.isRead : Response → Bool
  | .readData _ => true
  | .readError => true
  | .writeDone => false
  | .writeError => false

/-- What a run observes: the responses to its port reads (70_reset_and_hazards.md R276). -/
def State.observed (s : State) : List Response := s.responses.filter Response.isRead

end Sys2Proof.Machine
end

