-- ==== Sys2Proof/Certificates/Slice0/Obligations.lean ====
section
/-! DEFINITION. The statements for the provers. Each docstring names the rules of spec/ it comes from. -/

open Sys2Proof Sys2Proof.Machine

/-! Encoding. -/

/-- 30_encoding.md R76, R77, R79: the word of a well-formed command decodes to that command, with the operands of any widths
(00_scope.md R5, log 23). -/
def Obligations.DecodeEncodeRoundTrip : Prop :=
  ∀ (w : Widths) (i : Instr), i.wellFormed w = true → decode w (encode w i) = .ok i

/-- 30_encoding.md R78, R81: a word that decodes is the word of the command it decodes to, so no bit is dropped,
with the operands of any widths (00_scope.md R5, log 23). -/
def Obligations.EncodeDecodeRoundTrip : Prop :=
  ∀ (w : Widths) (c : Word) (i : Instr), decode w c = .ok i → i.wellFormed w = true ∧ encode w i = c

/-- 30_encoding.md R77, R78: a word decodes iff it selects a row of the table, `(c AND mask) = match`, and at most one row, with
the operands of any widths (00_scope.md R5, log 23); with the default widths the rows are those of R77, opcodes and used bits. -/
def Obligations.DecodeSelectsByMaskAndMatch : Prop :=
  (∀ (w : Widths) (c : Word),
    ((∃ i, decode w c = .ok i) ↔ ∃ row ∈ opcodeTable w, c &&& row.mask = row.pattern) ∧
    ∀ k l : Fin (opcodeTable w).length,
      c &&& ((opcodeTable w)[k]).mask = ((opcodeTable w)[k]).pattern →
      c &&& ((opcodeTable w)[l]).mask = ((opcodeTable w)[l]).pattern → k = l) ∧
  (opcodeTable defaultWidths).map (fun row => (row.mnemonic, row.op, row.used)) =
      [("CFG.DIM", 0x02, 0x000000FFFFFFFF), ("BLK.LOAD", 0x10, 0x000000FFFFFFFF), ("BLK.STORE", 0x11, 0x000000FFFFFFFF),
        ("DCT.FWD", 0x12, 0x0), ("DCT.INV", 0x13, 0x0), ("QNT", 0x14, 0x0), ("DQNT", 0x15, 0x0), ("XFM.FWD", 0x16, 0x0),
        ("XFM.INV", 0x17, 0x0), ("ELIG", 0x20, 0x0000FF0000003F), ("BB.NEW", 0x30, 0x02000000000000),
        ("BB.GET", 0x31, 0x02000000FFFFFF), ("BB.SET", 0x32, 0x03000000FFFFFF), ("BB.CLR", 0x33, 0x02000000FFFFFF),
        ("BB.SETR", 0x34, 0x02FFFFFFFFFFFF), ("BB.CLRR", 0x35, 0x02FFFFFFFFFFFF), ("BB.APP", 0x36, 0x03000000000000),
        ("BB.APPALL", 0x37, 0x06000000000000), ("BB.LEN", 0x38, 0x02000000000000), ("HAM.ENC", 0x40, 0x0000000000000F),
        ("HAM.DEC", 0x41, 0x0000000000007F), ("HAM.PUTB", 0x42, 0x020000000000FF), ("HAM.GETB", 0x43, 0x02000000FFFFFF),
        ("SCAN.INIT", 0x50, 0x0000FF00000000), ("SCAN.ADV", 0x51, 0x0), ("SCAN.RDBIT", 0x52, 0x0),
        ("SCAN.WRBIT", 0x53, 0x01000000000000), ("SCAN.STAT", 0x54, 0x0), ("SCAN.WRBUF", 0x55, 0x02000000000000),
        ("SCAN.RDBUF", 0x56, 0x02000000000000), ("SCAN.COUNT", 0x57, 0x0000FF00000000), ("FRM.CAP", 0x60, 0x000000FFFFFFFF)]

/-- 95_test_vectors.md: words of every family read as the commands they stand for (sanity). -/
def Obligations.DecodeReadsTableWords : Prop :=
  decode defaultWidths 0x02000000000800A0 = .ok (.cfgDim 160 8) ∧
  decode defaultWidths 0x1000000000080010 = .ok (.blkLoad 16 8) ∧
  decode defaultWidths 0x2000000200000008 = .ok (.elig 8 2) ∧
  decode defaultWidths 0x3400000006000004 = .ok (.bbSetr .s0 4 6) ∧
  decode defaultWidths 0x3704000000000000 = .ok (.bbAppall .s1 .s0) ∧
  decode defaultWidths 0x4302000000000001 = .ok (.hamGetb .s1 1) ∧
  decode defaultWidths 0x5301000000000000 = .ok (.scanWrbit true) ∧
  decode defaultWidths 0x60000000FFFFFFF2 = .ok (.frmCap (-14))

/-! The step, the port and reset. -/

/-- 30_encoding.md R78, 60_exceptions.md R243: the data of a `CMD` write that decodes to `i` runs `i`; around it the step
takes the host's move, counts the word in SEQ and gives the write's response. -/
def Obligations.StepRunsDecodedCommand : Prop :=
  ∀ (s : State) (c : Word) (ms : List HostMove) (i : Instr),
    s.pending = .portWrite 0 c :: ms → decode s.widths c = .ok i →
    step s = exec i { s with pending := ms, seqNo := s.seqNo + 1, responses := s.responses ++ [.writeDone] }

/-- 60_exceptions.md R240: a word whose opcode is outside the table, or with a 1 in a bit its command does not use,
changes nothing but STATUS.ERR = 5, RESULT = 0 and SEQ + 1. -/
def Obligations.IllegalWordRaisesIllegalCommand : Prop :=
  ErrCode.illegalCommand.code = 5 ∧
  ∀ (s : State) (c : Word) (ms : List HostMove),
    s.pending = .portWrite 0 c :: ms →
    ((∀ row ∈ opcodeTable s.widths, row.op ≠ opcodeOf c) ∨
      (∃ row ∈ opcodeTable s.widths, row.op = opcodeOf c ∧ c.extractLsb' 0 56 &&& ~~~row.used ≠ 0)) →
    step s = .next { s with pending := ms, seqNo := s.seqNo + 1, responses := s.responses ++ [.writeDone],
                            err := .illegalCommand, result := 0 }

/-- 10_state.md R24: SEQ counts every word written to CMD, whether or not it decodes and whether or not the command
raises. The rest of the clause is the model's own bookkeeping (logs 1, 2, 6). -/
def Obligations.EveryCommandCountsInSeq : Prop :=
  ∀ (s t : State) (c : Word) (ms : List HostMove),
    s.pending = .portWrite 0 c :: ms → step s = .next t →
    t.seqNo = s.seqNo + 1 ∧ t.pending = ms ∧ t.responses = s.responses ++ [.writeDone] ∧ t.epoch = s.epoch

/-- 20_memory.md R53: (a) CMD runs the command, (b) a BLK cell, (c) a PLANE word, (d) PortError with no state changed.
That a PortError move is a next state with an error token is log 3. -/
def Obligations.PortWriteEffects : Prop :=
  ∀ (s : State) (addr : PortAddr) (data : Word) (ms : List HostMove),
    s.pending = .portWrite addr data :: ms →
    (addr = 0 →
      step s = performWord data
        { s with pending := ms, seqNo := s.seqNo + 1, responses := s.responses ++ [.writeDone] }) ∧
    (0x40 ≤ addr.toNat ∧ addr.toNat ≤ 0x7F →
      ∃ t, step s = .next t ∧
        (∀ r c : Fin 8, cell t.blk r c = if 8 * r.val + c.val = addr.toNat - 0x40 then data else cell s.blk r c) ∧
        t = { s with pending := ms, responses := s.responses ++ [.writeDone], blk := t.blk }) ∧
    (0x40000000 ≤ addr.toNat ∧ addr.toNat < 0x40000000 + s.planeWords →
      ∃ t, step s = .next t ∧ t.planeAt (addr.toNat - 0x40000000) = data ∧
        (∀ a, a ≠ addr.toNat - 0x40000000 → t.planeAt a = s.planeAt a) ∧
        t = { s with pending := ms, responses := s.responses ++ [.writeDone], plane := t.plane }) ∧
    (addr ≠ 0 ∧ ¬(0x40 ≤ addr.toNat ∧ addr.toNat ≤ 0x7F) ∧
        ¬(0x40000000 ≤ addr.toNat ∧ addr.toNat < 0x40000000 + s.planeWords) →
      step s = .next { s with pending := ms, responses := s.responses ++ [.writeError] })

/-- 20_memory.md R52 with the map of 10_state.md R33: a read returns the named register or memory word zero-extended and
changes no state of the block; CMD is write-only and answers PortError (log 3), and so does
`0x0E` where there is one sequence (log 23). The tables, PLANE_WORDS and BITCAP read as the
parameters of the block (log 7), and as the values of R5, R31 and 43_hamming.md R171 where those are the defaults. -/
def Obligations.PortReadReturnsRegister : Prop :=
  ∀ (s : State) (addr : PortAddr) (ms : List HostMove),
    s.pending = .portRead addr :: ms →
    ∃ r, step s = .next { s with pending := ms, responses := s.responses ++ [r] } ∧
      (addr = 0x02 → r = .readData s.result) ∧
      (addr = 0x03 → r = .readData (BitVec.ofNat 64 s.seqNo.toNat)) ∧
      (addr = 0x04 → r = .readData (BitVec.ofNat 64 s.width.toNat)) ∧
      (addr = 0x05 → r = .readData (BitVec.ofNat 64 s.height.toNat)) ∧
      (addr = 0x06 → r = .readData (BitVec.ofNat 64 s.order.toNat)) ∧
      (addr = 0x07 → r = .readData (BitVec.ofNat 64 s.scanBx.toNat)) ∧
      (addr = 0x08 → r = .readData (BitVec.ofNat 64 s.scanBy.toNat)) ∧
      (addr = 0x09 → r = .readData (BitVec.ofNat 64 s.scanX.toNat)) ∧
      (addr = 0x0A → r = .readData (BitVec.ofNat 64 s.scanY.toNat)) ∧
      (addr = 0x0B → r = .readData (BitVec.ofNat 64 s.enc.toNat)) ∧
      (addr = 0x0C → r = .readData (BitVec.ofNat 64 s.chg.toNat)) ∧
      (addr = 0x0D → r = .readData (BitVec.ofNat 64 s.seq0.length)) ∧
      (addr = 0x0E → r = if s.widths.nbuf = .two then .readData (BitVec.ofNat 64 s.seq1.length) else .readError) ∧
      (addr = 0x0F → r = .readData 0x0001444353544547) ∧
      (addr = 0x10 → r = .readData (BitVec.ofNat 64 s.planeWords)) ∧
      (addr = 0x11 → r = .readData (BitVec.ofNat 64 s.bitCap)) ∧
      (∀ i j : Fin 8, addr.toNat = 0x40 + 8 * i.val + j.val → r = .readData (cell s.blk i j)) ∧
      (∀ i j : Fin 8, addr.toNat = 0x80 + 8 * i.val + j.val → r = .readData (s.params.cos i j)) ∧
      (∀ i j : Fin 8, addr.toNat = 0xC0 + 8 * i.val + j.val → r = .readData (BitVec.ofNat 64 (s.params.quant i j))) ∧
      (∀ i : Fin 4, addr.toNat = 0x100 + i.val → r = .readData (BitVec.ofNat 64 (s.params.hamG[i]).toNat)) ∧
      (∀ i : Fin 3, addr.toNat = 0x104 + i.val → r = .readData (BitVec.ofNat 64 (s.params.hamH[i]).toNat)) ∧
      (s.params = defaultParams →
        (addr = 0x10 → r = .readData 1048576) ∧ (addr = 0x11 → r = .readData 65536) ∧
        (addr = 0x100 → r = .readData 0x31) ∧ (addr = 0x101 → r = .readData 0x52) ∧
        (addr = 0x102 → r = .readData 0x64) ∧ (addr = 0x103 → r = .readData 0x78) ∧
        (addr = 0x104 → r = .readData 0x1B) ∧ (addr = 0x105 → r = .readData 0x2D) ∧
        (addr = 0x106 → r = .readData 0x4E)) ∧
      (∀ a, a < s.planeWords → addr.toNat = 0x40000000 + a → r = .readData (s.planeAt a)) ∧
      (addr = 0x00 → r = .readError)

/-- 20_memory.md R55: reads and writes of every unmapped address get PortError; no state of the block changes (log 3). -/
def Obligations.UnmappedAddressGetsPortError : Prop :=
  ∀ (s : State) (addr : PortAddr) (ms : List HostMove),
    ((0x12 ≤ addr.toNat ∧ addr.toNat ≤ 0x3F) ∨ (0x107 ≤ addr.toNat ∧ addr.toNat ≤ 0x3FFFFFFF) ∨
      (0x40000000 + s.planeWords ≤ addr.toNat ∧ addr.toNat ≤ 0xFFFFFFFF)) →
    (s.pending = .portRead addr :: ms →
      step s = .next { s with pending := ms, responses := s.responses ++ [.readError] }) ∧
    ∀ data : Word, s.pending = .portWrite addr data :: ms →
      step s = .next { s with pending := ms, responses := s.responses ++ [.writeError] }

/-- 10_state.md R25, 60_exceptions.md R236: STATUS holds ERR in bits 3:0, EOM in bit 8, and every other bit reads 0;
the six codes of R236. -/
def Obligations.StatusWordHoldsErrAndEom : Prop :=
  (ErrCode.ok.code = 0 ∧ ErrCode.endOfMedium.code = 1 ∧ ErrCode.invalidArgument.code = 2 ∧ ErrCode.decodeError.code = 3 ∧
    ErrCode.bufOverflow.code = 4 ∧ ErrCode.illegalCommand.code = 5) ∧
  ∀ (s : State) (ms : List HostMove), s.pending = .portRead 0x01 :: ms →
    ∃ w : Word, step s = .next { s with pending := ms, responses := s.responses ++ [.readData w] } ∧
      w.extractLsb' 0 4 = s.err.code ∧ w.getLsbD 8 = s.eom ∧
      ∀ i, 4 ≤ i → i ≠ 8 → w.getLsbD i = false

/-- 10_state.md R38, 70_reset_and_hazards.md R260: what `Reset` leaves, from any state. The contents of BLK and PLANE are
not spoken of: they are unspecified. -/
def Obligations.ResetClearsBlock : Prop :=
  ∀ (s : State) (ms : List HostMove), s.pending = .reset :: ms →
    ∃ t, step s = .next t ∧
      t.status = 0 ∧ t.err = .ok ∧ t.eom = false ∧ t.result = 0 ∧ t.seqNo = 0 ∧ t.width = 0 ∧ t.height = 0 ∧
      t.order = 0 ∧ t.scanBx = 0 ∧ t.scanBy = 0 ∧ t.scanX = 0 ∧ t.scanY = 0 ∧ t.enc = 0 ∧ t.chg = 0 ∧
      (∀ q : SeqId, (t.seq q).length = 0 ∧ ∀ i, (t.seq q).get i = false) ∧
      t.params = s.params ∧
      (∀ addr : PortAddr, 0x0F ≤ addr.toNat → blkIndex addr = none → s.planeIndex addr = none →
        t.portValue addr = s.portValue addr)

/-! Invariants. -/

/-- 10_state.md R34, R38: the reset state satisfies the invariants, whatever legal parameters the block has (the defaults of
00_scope.md R5 are legal) and whatever moves the host has in store. -/
def Obligations.ResetStateSatisfiesInvariant : Prop :=
  defaultParams.Legal ∧ ∀ (p : Params) (moves : List HostMove), p.Legal → (State.resetWith p moves).Inv

/-- 10_state.md R34: every step keeps the invariants, the canonical form of plane memory (log 5) and the `DIM_BITS` bits of the
dimensions (R27, log 23), from every state that has them; and no step changes the parameters (10_state.md R31, R35). -/
def Obligations.StepKeepsInvariant : Prop :=
  ∀ s t : State, s.Inv → step s = .next t → t.Inv ∧ t.params = s.params

/-- 20_memory.md R58, 60_exceptions.md R247, 70_reset_and_hazards.md R276: from a state with the invariants a step always
answers a next state: no command forms an illegal plane address, none is refused, none halts the block. The model's fault
(log 10) needs a state that breaks R34(a) or (c). -/
def Obligations.InvariantStatesNeverStop : Prop :=
  (∀ s : State, s.Inv → ∃ t, step s = .next t) ∧
  (∀ (s : State) (f : Fault), step s = .fault f → ¬s.PlaneLegal) ∧
  ∀ (s : State) (r : Refusal), step s ≠ .refused r

/-- 10_state.md R34: all six invariants hold in every state of every run from reset, of a block with any legal parameters; and
the dimensions have `DIM_BITS` bits (R27, log 23). -/
def Obligations.ReachableStatesKeepInvariants : Prop :=
  ∀ s : State, s.Reachable →
    (s.width.toNat * s.height.toNat ≤ s.planeWords ∧
      s.width.toNat < 2 ^ s.widths.dimBits.val ∧ s.height.toNat < 2 ^ s.widths.dimBits.val) ∧
    s.order.toNat ≤ 7 ∧ s.order.toNat ≤ s.orderMax ∧
    (s.scanBx.toNat % 8 = 0 ∧ s.scanBy.toNat % 8 = 0 ∧
      (s.eom = false → 8 ≤ s.width.toNat → 8 ≤ s.height.toNat →
        s.scanBx.toNat + 8 ≤ s.width.toNat ∧ s.scanBy.toNat + 8 ≤ s.height.toNat)) ∧
    ((s.scanX = 0 ∧ s.scanY = 0) ∨ (s.scanX = 1 ∧ s.scanY = 0)) ∧
    s.chg.toNat ≤ s.enc.toNat ∧
    ∀ q : SeqId, (s.seq q).length ≤ s.bitCap ∧ ∀ i, (s.seq q).length ≤ i → (s.seq q).get i = false

/-! Rules over all commands. -/

/-- 60_exceptions.md R238, R244, R251: InvalidArgument, DecodeError and BufOverflow are raised before any state is
changed, but for BufOverflow of SCAN.RDBUF; RESULT is then 0. -/
def Obligations.OperandErrorsChangeNothing : Prop :=
  ∀ (i : Instr) (s t : State), exec i s = .next t →
    (t.err = .invalidArgument ∨ t.err = .decodeError ∨ (t.err = .bufOverflow ∧ ∀ q, i ≠ .scanRdbuf q)) →
    t = { s with err := t.err, result := 0 }

/-- 10_state.md R22, R27 to R30, R32: which commands write BLK, PLANE, the dimensions, ORDER, the cursor, the counters
and the sequences; every other command leaves them as they are. EOM is EomChangesOnlyByScannerAndCfgDim. The last line: no
command's own effect writes SEQ, since every CMD write counts in SEQ before it (R24, 60_exceptions.md R243; the split of
log 12), nor the model's reset count (log 6), nor a parameter (R31, R35; log 7). -/
def Obligations.OnlyListedCommandsWriteEachState : Prop :=
  ∀ (i : Instr) (s t : State), exec i s = .next t →
    (t.blk ≠ s.blk → (∃ x0 y0, i = .blkLoad x0 y0) ∨ i ∈ [.dctFwd, .dctInv, .qnt, .dqnt, .xfmFwd, .xfmInv]) ∧
    ((∃ a, t.planeAt a ≠ s.planeAt a) →
      (∃ x0 y0, i = .blkStore x0 y0) ∨ (∃ b, i = .scanWrbit b) ∨ (∃ q, i = .scanWrbuf q)) ∧
    ((t.width ≠ s.width ∨ t.height ≠ s.height) → ∃ w h, i = .cfgDim w h) ∧
    (t.order ≠ s.order → ∃ o, i = .scanInit o) ∧
    ((t.scanBx ≠ s.scanBx ∨ t.scanBy ≠ s.scanBy ∨ t.scanX ≠ s.scanX ∨ t.scanY ≠ s.scanY) →
      i = .scanAdv ∨ i = .scanRdbit ∨ (∃ b, i = .scanWrbit b) ∨ (∃ q, i = .scanWrbuf q) ∨ (∃ q, i = .scanRdbuf q) ∨
      (∃ o, i = .scanInit o) ∨ (∃ w h, i = .cfgDim w h)) ∧
    ((t.enc ≠ s.enc ∨ t.chg ≠ s.chg) →
      (∃ b, i = .scanWrbit b) ∨ (∃ q, i = .scanWrbuf q) ∨ (∃ o, i = .scanInit o) ∨ (∃ w h, i = .cfgDim w h)) ∧
    (∀ q, t.seq q ≠ s.seq q →
      i = .bbNew q ∨ (∃ n b, i = .bbSet q n b) ∨ (∃ n, i = .bbClr q n) ∨ (∃ lo hi, i = .bbSetr q lo hi) ∨
      (∃ lo hi, i = .bbClrr q lo hi) ∨ (∃ b, i = .bbApp q b) ∨ (∃ src, i = .bbAppall q src) ∨
      (∃ b, i = .hamPutb q b) ∨ i = .scanRdbuf q) ∧
    t.seqNo = s.seqNo ∧ t.epoch = s.epoch ∧ t.params = s.params

/-- 10_state.md R26: EOM goes to 1 only inside SCAN.ADV, SCAN.RDBIT, SCAN.WRBIT, SCAN.WRBUF, SCAN.RDBUF, and to 0 only by a
SCAN.INIT or CFG.DIM that succeeds. -/
def Obligations.EomChangesOnlyByScannerAndCfgDim : Prop :=
  ∀ (i : Instr) (s t : State), exec i s = .next t →
    (s.eom = false → t.eom = true →
      i = .scanAdv ∨ i = .scanRdbit ∨ (∃ b, i = .scanWrbit b) ∨ (∃ q, i = .scanWrbuf q) ∨ (∃ q, i = .scanRdbuf q)) ∧
    (s.eom = true → t.eom = false → t.err = .ok ∧ ((∃ o, i = .scanInit o) ∨ ∃ w h, i = .cfgDim w h))

/-- 42_bit_sequence.md R150: `LEN[s]` never decreases except by BB.NEW (and reset, which is no command). -/
def Obligations.LengthsDecreaseOnlyByBbNew : Prop :=
  ∀ (i : Instr) (s t : State), exec i s = .next t →
    ∀ q : SeqId, i ≠ .bbNew q → (s.seq q).length ≤ (t.seq q).length

/-! Image and block commands. -/

/-- 40_block_transform.md R108: CFG.DIM, its operands of `DIM_BITS` bits (00_scope.md R5), sets the dimensions and rewinds the
scanner, or raises InvalidArgument with no state changed when the plane does not fit. -/
def Obligations.CfgDimSetsImageAndRewinds : Prop :=
  ∀ (w h : Nat) (s : State), w < 2 ^ s.widths.dimBits.val → h < 2 ^ s.widths.dimBits.val →
    (w * h ≤ s.planeWords →
      ∃ t, exec (.cfgDim w h) s = .next t ∧ t.width.toNat = w ∧ t.height.toNat = h ∧
        t = { s with width := t.width, height := t.height, scanBx := 0, scanBy := 0, scanX := 0, scanY := 0,
                     enc := 0, chg := 0, eom := false, err := .ok, result := 0 }) ∧
    (s.planeWords < w * h →
      exec (.cfgDim w h) s = .next { s with err := .invalidArgument, result := 0 })

/-- 40_block_transform.md R109: BLK.LOAD materialises the block at `(x0, y0)`, `+0` outside the plane. -/
def Obligations.BlkLoadMaterialisesBlock : Prop :=
  ∀ (x0 y0 : Nat) (s : State), s.width.toNat * s.height.toNat ≤ s.planeWords →
    ∃ t, exec (.blkLoad x0 y0) s = .next t ∧
      (∀ r c : Fin 8, cell t.blk r c =
        if x0 + c.val < s.width.toNat ∧ y0 + r.val < s.height.toNat then
          s.planeAt ((y0 + r.val) * s.width.toNat + (x0 + c.val)) else 0) ∧
      t = { s with blk := t.blk, err := .ok, result := 0 }

/-- 40_block_transform.md R110: BLK.STORE writes each cell inside the plane to its address and drops the others; every
other plane word is as it was. -/
def Obligations.BlkStoreWritesInsideCells : Prop :=
  ∀ (x0 y0 : Nat) (s : State), s.width.toNat * s.height.toNat ≤ s.planeWords →
    ∃ t, exec (.blkStore x0 y0) s = .next t ∧
      (∀ r c : Fin 8, x0 + c.val < s.width.toNat → y0 + r.val < s.height.toNat →
        t.planeAt ((y0 + r.val) * s.width.toNat + (x0 + c.val)) = cell s.blk r c) ∧
      (∀ a, (∀ r c : Fin 8, x0 + c.val < s.width.toNat → y0 + r.val < s.height.toNat →
          a ≠ (y0 + r.val) * s.width.toNat + (x0 + c.val)) → t.planeAt a = s.planeAt a) ∧
      t = { s with plane := t.plane, err := .ok, result := 0 }

/-- 40_block_transform.md R110: storing a block and loading it again gives back the inside cells and `+0` outside. -/
def Obligations.StoreThenLoadKeepsInsideCells : Prop :=
  ∀ (x0 y0 : Nat) (s : State), s.width.toNat * s.height.toNat ≤ s.planeWords →
    ∃ t, runCommands [.blkStore x0 y0, .blkLoad x0 y0] s = .next t ∧ t.err = .ok ∧
      ∀ r c : Fin 8, cell t.blk r c =
        if x0 + c.val < s.width.toNat ∧ y0 + r.val < s.height.toNat then cell s.blk r c else 0

/-- 40_block_transform.md R104, R107, R111, R112: the fifteen operations of `dot8` in their order; the default CTAB, entry by
entry, from the eight constants by the closed form of R104; and every cell DCT.FWD and DCT.INV leave, from the old cells, for
every content of BLK and every CTAB; no error, nothing else changed. -/
def Obligations.DctCellsFollowTheFormula : Prop :=
  (∀ (f : NumFormat) (a b : Fin 8 → Word), dot8 f a b =
    fadd f (fadd f (fadd f (fadd f (fadd f (fadd f (fadd f
      (fmul f (a 0) (b 0)) (fmul f (a 1) (b 1))) (fmul f (a 2) (b 2))) (fmul f (a 3) (b 3)))
      (fmul f (a 4) (b 4))) (fmul f (a 5) (b 5))) (fmul f (a 6) (b 6))) (fmul f (a 7) (b 7))) ∧
  (∀ j : Fin 8, defaultParams.cos 0 j = 0x3FD6A09E667F3BCD) ∧
  (∀ i j : Fin 8, i ≠ 0 → ∀ n m k : Nat,
    n = (2 * j.val + 1) * i.val % 32 → m = (if 16 < n then 32 - n else n) → k = (if 8 < m then 16 - m else m) →
    defaultParams.cos i j =
      ([0x3FDF6297CFF75CB0, 0x3FDD906BCF328D46, 0x3FDA9B66290EA1A3, 0x3FD6A09E667F3BCD, 0x3FD1C73B39AE68C8,
        0x3FC87DE2A6AEA963, 0x3FB8F8B83C69A60B] : List Word).getD (k - 1) 0 |||
      (if 8 < m then 0x8000000000000000 else 0)) ∧
  (ofInt .binary64 128 = 0x4060000000000000 ∧ defaultParams.num = .binary64) ∧
  ∀ s : State,
    (∃ t, exec .dctFwd s = .next t ∧
      (∀ u v : Fin 8, cell t.blk u v =
        dot8 s.num (fun k => dot8 s.num (fun j => s.params.cos u j)
            (fun j => fsub s.num (cell s.blk j k) (ofInt s.num 128)))
          (fun k => s.params.cos v k)) ∧
      t = { s with blk := t.blk, err := .ok, result := 0 }) ∧
    (∃ t, exec .dctInv s = .next t ∧
      (∀ r c : Fin 8, cell t.blk r c =
        fadd s.num (dot8 s.num (fun k => dot8 s.num (fun j => s.params.cos j r) (fun j => cell s.blk j k))
          (fun k => s.params.cos k c)) (ofInt s.num 128)) ∧
      t = { s with blk := t.blk, err := .ok, result := 0 })

/-- 40_block_transform.md R106, R113, R114: QNT is one division a cell and DQNT one product, for every QTAB; a table's entry as
a number is exact, and positive in a legal table; the default table, entry by entry. -/
def Obligations.QuantizationIsElementwise : Prop :=
  (∀ s : State,
    (∃ t, exec .qnt s = .next t ∧
      (∀ r c : Fin 8, cell t.blk r c = fdiv s.num (cell s.blk r c) (ofInt s.num (s.params.quant r c : Nat))) ∧
      t = { s with blk := t.blk, err := .ok, result := 0 }) ∧
    (∃ t, exec .dqnt s = .next t ∧
      (∀ r c : Fin 8, cell t.blk r c = fmul s.num (cell s.blk r c) (ofInt s.num (s.params.quant r c : Nat))) ∧
      t = { s with blk := t.blk, err := .ok, result := 0 }) ∧
    ∀ r c : Fin 8, isFinite s.num (ofInt s.num (s.params.quant r c : Nat)) ∧
      signedUnits s.num (ofInt s.num (s.params.quant r c : Nat)) = (s.params.quant r c * unitScale s.num : Nat) ∧
      (s.params.Legal → 0 < s.params.quant r c)) ∧
  (List.finRange 64).map (fun k => (defaultParams.qtab[k]).toNat) =
    [16, 11, 10, 16, 24, 40, 51, 61, 12, 12, 14, 19, 26, 58, 60, 55, 14, 13, 16, 24, 40, 57, 69, 56, 14, 17, 22, 29, 51, 87,
      80, 62, 18, 22, 37, 56, 68, 109, 103, 77, 24, 35, 55, 64, 81, 104, 113, 92, 49, 64, 78, 87, 103, 121, 120, 101, 72, 92,
      95, 98, 112, 100, 103, 99]

/-- 40_block_transform.md R115, R116: XFM.FWD is DCT.FWD then QNT, and XFM.INV is DQNT then DCT.INV, bit for bit; each is
one command and completes. -/
def Obligations.XfmEqualsTheTwoCommands : Prop :=
  ∀ s : State,
    (∃ t, exec .xfmFwd s = .next t ∧ runCommands [.dctFwd, .qnt] s = .next t ∧ t.err = .ok ∧ t.result = 0) ∧
    (∃ t, exec .xfmInv s = .next t ∧ runCommands [.dqnt, .dctInv] s = .next t ∧ t.err = .ok ∧ t.result = 0)

/-- 40_block_transform.md R111, R112: corner cases, with the default format and table: a block of all 128.0 gives all `+0`, and
all `+0` gives all 128.0. -/
def Obligations.MidGrayAndZeroBlocksTransformExactly : Prop :=
  ∀ s : State, s.num = defaultParams.num → s.params.ctab = defaultParams.ctab →
    ((∀ r c : Fin 8, cell s.blk r c = 0x4060000000000000) →
      ∃ t, exec .dctFwd s = .next t ∧ ∀ u v : Fin 8, cell t.blk u v = 0) ∧
    ((∀ r c : Fin 8, cell s.blk r c = 0) →
      ∃ t, exec .dctInv s = .next t ∧ ∀ r c : Fin 8, cell t.blk r c = 0x4060000000000000)

/-! Numbers. -/

/-- 40_block_transform.md R102: an operation with a NaN operand gives the canonical NaN; so do the invalid operations
`inf - inf`, `0 * inf`, `0 / 0`, `inf / inf`; a NaN result is always the canonical NaN: payloads are not propagated; the other
sums, differences, products and quotients with an infinity, on either side, are an infinity, or a zero for a finite number over
one, of the right sign (IEEE 754, by 00_scope.md R8; log 9, PRESUMED). -/
def Obligations.NanResultsAreCanonical : Prop :=
  canonicalNaN .binary64 = 0x7FF8000000000000 ∧
  ∀ (f : NumFormat) (a b : Word),
    ((isNaN f a = true ∨ isNaN f b = true) →
      fadd f a b = canonicalNaN f ∧ fsub f a b = canonicalNaN f ∧ fmul f a b = canonicalNaN f ∧
      fdiv f a b = canonicalNaN f) ∧
    (isInf f a = true → isInf f b = true → isNegative f a ≠ isNegative f b → fadd f a b = canonicalNaN f) ∧
    (isInf f a = true → isInf f b = true → isNegative f a = isNegative f b → fsub f a b = canonicalNaN f) ∧
    (isFinite f a → units f a = 0 → isInf f b = true → fmul f a b = canonicalNaN f ∧ fmul f b a = canonicalNaN f) ∧
    (isFinite f a → units f a = 0 → isFinite f b → units f b = 0 → fdiv f a b = canonicalNaN f) ∧
    (isInf f a = true → isInf f b = true → fdiv f a b = canonicalNaN f) ∧
    (isNaN f (fadd f a b) = true → fadd f a b = canonicalNaN f) ∧
    (isNaN f (fsub f a b) = true → fsub f a b = canonicalNaN f) ∧
    (isNaN f (fmul f a b) = true → fmul f a b = canonicalNaN f) ∧
    (isNaN f (fdiv f a b) = true → fdiv f a b = canonicalNaN f) ∧
    (isInf f a = true → (isFinite f b ∨ isInf f b = true ∧ isNegative f b = isNegative f a) →
      (isInf f (fadd f a b) = true ∧ isNegative f (fadd f a b) = isNegative f a) ∧
      isInf f (fadd f b a) = true ∧ isNegative f (fadd f b a) = isNegative f a) ∧
    (isInf f a = true → (isFinite f b ∨ isInf f b = true ∧ isNegative f b ≠ isNegative f a) →
      (isInf f (fsub f a b) = true ∧ isNegative f (fsub f a b) = isNegative f a) ∧
      isInf f (fsub f b a) = true ∧ isNegative f (fsub f b a) = !isNegative f a) ∧
    (isInf f a = true → (isFinite f b ∧ units f b ≠ 0 ∨ isInf f b = true) →
      (isInf f (fmul f a b) = true ∧ isNegative f (fmul f a b) = (isNegative f a ^^ isNegative f b)) ∧
      isInf f (fmul f b a) = true ∧ isNegative f (fmul f b a) = (isNegative f b ^^ isNegative f a)) ∧
    (isInf f a = true → isFinite f b →
      (isInf f (fdiv f a b) = true ∧ isNegative f (fdiv f a b) = (isNegative f a ^^ isNegative f b)) ∧
      isFinite f (fdiv f b a) ∧ units f (fdiv f b a) = 0 ∧
        isNegative f (fdiv f b a) = (isNegative f b ^^ isNegative f a))

/-- 40_block_transform.md R101: the sum and the difference of two finite numbers are the exact ones rounded to nearest, ties to
even, or the infinity of the right sign where the exact one is too large (`RoundsTo`); an exact sum of zero is `-0` for two
negative operands, else `+0`. -/
def Obligations.SumIsRoundedToNearestEven : Prop :=
  ∀ (f : NumFormat) (a b : Word), isFinite f a → isFinite f b →
    RoundsTo f (signedUnits f a + signedUnits f b) 1 (fadd f a b) ∧
    RoundsTo f (signedUnits f a - signedUnits f b) 1 (fsub f a b) ∧
    (signedUnits f a + signedUnits f b = 0 →
      fadd f a b = if isNegative f a = true ∧ isNegative f b = true then signBit f else 0)

/-- 40_block_transform.md R101: the product and the quotient of two finite numbers are the exact ones rounded to nearest, ties to
even, or the infinity of the right sign where the exact one is too large (`RoundsTo`; the product of two numbers in units is
scaled by `unitScale`); the sign is the exclusive-or of the operands' signs, of a zero too; a nonzero number over zero is an
infinity of that sign (IEEE 754, by 00_scope.md R8; log 9, PRESUMED). -/
def Obligations.ProductAndQuotientAreRoundedToNearestEven : Prop :=
  ∀ (f : NumFormat) (a b : Word), isFinite f a → isFinite f b →
    (RoundsTo f (signedUnits f a * signedUnits f b) (unitScale f) (fmul f a b) ∧
      isNegative f (fmul f a b) = (isNegative f a ^^ isNegative f b)) ∧
    (units f b ≠ 0 →
      RoundsTo f (if isNegative f b then -(signedUnits f a * (unitScale f : Int)) else signedUnits f a * (unitScale f : Int))
        (units f b) (fdiv f a b) ∧
      isNegative f (fdiv f a b) = (isNegative f a ^^ isNegative f b)) ∧
    (units f b = 0 → units f a ≠ 0 →
      isInf f (fdiv f a b) = true ∧ isNegative f (fdiv f a b) = (isNegative f a ^^ isNegative f b))

/-- 41_order_predicate.md R141, R142: ELIG returns 1 exactly for the magnitudes of R141's table, never for a NaN or an
infinity, and raises InvalidArgument for an order above ORDER_MAX; it changes nothing else. -/
def Obligations.EligFollowsTheMagnitudeTable : Prop :=
  ∀ (k order : Nat) (s : State), k < 64 →
    (order ≤ s.orderMax →
      ∃ t, exec (.elig k order) s = .next t ∧ t = { s with err := .ok, result := t.result } ∧
        (t.result = 0 ∨ t.result = 1) ∧
        (t.result = 1 ↔
          (order = 0 ∧ absInRange s.num (s.blkAt k) 2 20) ∨ (order = 1 ∧ absInRange s.num (s.blkAt k) 4 20) ∨
          (order = 2 ∧ (absInRange s.num (s.blkAt k) 8 17 ∨ absInRange s.num (s.blkAt k) 20 21)))) ∧
    (s.orderMax < order → exec (.elig k order) s = .next { s with err := .invalidArgument, result := 0 })

/-- 41_order_predicate.md R143, 44_scanner.md R194, R195(b) to (d), R203: writing a bit of an eligible number keeps it eligible at
that order, sets that bit of the magnitude, keeps the sign, every other magnitude bit and the fraction, exactly; writing the
bit that is there gives the same word (a datum of the format: for binary64 every word is one). -/
def Obligations.WrittenBitReadsBackExactly : Prop :=
  ∀ (f : NumFormat) (v : Word) (o : Nat) (bit : Bool), o ≤ 7 → isEligible f v o = true →
    isEligible f (rewriteBit f v o bit) o = true ∧
    carriedBit f (rewriteBit f v o bit) o = bit ∧
    isNegative f (rewriteBit f v o bit) = isNegative f v ∧
    units f (rewriteBit f v o bit) % unitScale f = units f v % unitScale f ∧
    (∀ j, j ≠ o →
      (units f (rewriteBit f v o bit) / unitScale f).testBit j = (units f v / unitScale f).testBit j) ∧
    (carriedBit f v o = bit → v.toNat < 2 ^ (f.signAt + 1) → rewriteBit f v o bit = v)

/-- 42_bit_sequence.md R151, R160(a): BB.NEW makes the sequence empty and leaves the other one and everything else. -/
def Obligations.BbNewEmptiesOneSequence : Prop :=
  ∀ (q : SeqId) (s : State),
    ∃ t, exec (.bbNew q) s = .next t ∧
      (∀ i, (t.seq q).get i = false) ∧ (t.seq q).length = 0 ∧ (∀ p, p ≠ q → t.seq p = s.seq p) ∧
      t = { s with seq0 := t.seq0, seq1 := t.seq1, err := .ok, result := 0 }

/-- 42_bit_sequence.md R152, R159: BB.GET returns `BIT[s][i]` below `BITCAP` and 0 at or beyond it, BB.LEN returns
`LEN[s]`; both change nothing but ERR and RESULT. -/
def Obligations.BbGetAndLenOnlyRead : Prop :=
  ∀ (q : SeqId) (i : Nat) (s : State),
    (∃ t, exec (.bbGet q i) s = .next t ∧ t = { s with err := .ok, result := t.result } ∧
      t.result.toNat = if i < s.bitCap then ((s.seq q).get i).toNat else 0) ∧
    (∃ t, exec (.bbLen q) s = .next t ∧ t = { s with err := .ok, result := t.result } ∧
      t.result.toNat = (s.seq q).len.toNat)

/-- 42_bit_sequence.md R153, R154, R160(b): BB.SET and BB.CLR write one bit and touch it, or raise BufOverflow with no
state changed. -/
def Obligations.BbSetAndClrWriteOneBit : Prop :=
  ∀ (q : SeqId) (i : Nat) (b : Bool) (s : State),
    (i < s.bitCap →
      (∃ t, exec (.bbSet q i b) s = .next t ∧
        (∀ j, (t.seq q).get j = if j = i then b else (s.seq q).get j) ∧
        (t.seq q).length = max (s.seq q).length (i + 1) ∧ (∀ p, p ≠ q → t.seq p = s.seq p) ∧
        t = { s with seq0 := t.seq0, seq1 := t.seq1, err := .ok, result := 0 }) ∧
      (∃ t, exec (.bbClr q i) s = .next t ∧
        (∀ j, (t.seq q).get j = if j = i then false else (s.seq q).get j) ∧
        (t.seq q).length = max (s.seq q).length (i + 1) ∧ (∀ p, p ≠ q → t.seq p = s.seq p) ∧
        t = { s with seq0 := t.seq0, seq1 := t.seq1, err := .ok, result := 0 })) ∧
    (s.bitCap ≤ i →
      exec (.bbSet q i b) s = .next { s with err := .bufOverflow, result := 0 } ∧
      exec (.bbClr q i) s = .next { s with err := .bufOverflow, result := 0 })

/-- 42_bit_sequence.md R155, R156: BB.SETR and BB.CLRR write the half-open range `lo <= j < hi`; an empty range writes and
touches nothing; `lo > hi` is InvalidArgument before `hi > BITCAP` is BufOverflow. -/
def Obligations.BbRangesWriteHalfOpenRange : Prop :=
  ∀ (q : SeqId) (lo hi : Nat) (s : State),
    (lo ≤ hi → hi ≤ s.bitCap →
      (∃ t, exec (.bbSetr q lo hi) s = .next t ∧
        (∀ j, (t.seq q).get j = if lo ≤ j ∧ j < hi then true else (s.seq q).get j) ∧
        (t.seq q).length = (if lo < hi then max (s.seq q).length hi else (s.seq q).length) ∧
        (∀ p, p ≠ q → t.seq p = s.seq p) ∧
        t = { s with seq0 := t.seq0, seq1 := t.seq1, err := .ok, result := 0 }) ∧
      (∃ t, exec (.bbClrr q lo hi) s = .next t ∧
        (∀ j, (t.seq q).get j = if lo ≤ j ∧ j < hi then false else (s.seq q).get j) ∧
        (t.seq q).length = (if lo < hi then max (s.seq q).length hi else (s.seq q).length) ∧
        (∀ p, p ≠ q → t.seq p = s.seq p) ∧
        t = { s with seq0 := t.seq0, seq1 := t.seq1, err := .ok, result := 0 })) ∧
    (hi < lo →
      exec (.bbSetr q lo hi) s = .next { s with err := .invalidArgument, result := 0 } ∧
      exec (.bbClrr q lo hi) s = .next { s with err := .invalidArgument, result := 0 }) ∧
    (lo ≤ hi → s.bitCap < hi →
      exec (.bbSetr q lo hi) s = .next { s with err := .bufOverflow, result := 0 } ∧
      exec (.bbClrr q lo hi) s = .next { s with err := .bufOverflow, result := 0 })

/-- 42_bit_sequence.md R157, R160(c): BB.APP writes at the old length and extends by one, or raises BufOverflow with no
state changed when the sequence is full. -/
def Obligations.BbAppAppendsOneBit : Prop :=
  ∀ (q : SeqId) (b : Bool) (s : State),
    ((s.seq q).length < s.bitCap →
      ∃ t, exec (.bbApp q b) s = .next t ∧
        (∀ j, (t.seq q).get j = if j = (s.seq q).length then b else (s.seq q).get j) ∧
        (t.seq q).length = (s.seq q).length + 1 ∧ (∀ p, p ≠ q → t.seq p = s.seq p) ∧
        t = { s with seq0 := t.seq0, seq1 := t.seq1, err := .ok, result := 0 }) ∧
    (s.bitCap ≤ (s.seq q).length →
      exec (.bbApp q b) s = .next { s with err := .bufOverflow, result := 0 })

/-- 42_bit_sequence.md R158: BB.APPALL copies the source's addressed bits, as they were at the start, to the end of the
destination; `d = s` doubles the sequence; BufOverflow is raised before any bit is written. -/
def Obligations.BbAppallAppendsSnapshot : Prop :=
  ∀ (d q : SeqId) (s : State),
    ((s.seq d).length + (s.seq q).length ≤ s.bitCap →
      ∃ t, exec (.bbAppall d q) s = .next t ∧
        (∀ j, (t.seq d).get j =
          if (s.seq d).length ≤ j ∧ j < (s.seq d).length + (s.seq q).length then
            (s.seq q).get (j - (s.seq d).length) else (s.seq d).get j) ∧
        (t.seq d).length = (s.seq d).length + (s.seq q).length ∧ (∀ p, p ≠ d → t.seq p = s.seq p) ∧
        t = { s with seq0 := t.seq0, seq1 := t.seq1, err := .ok, result := 0 }) ∧
    (s.bitCap < (s.seq d).length + (s.seq q).length →
      exec (.bbAppall d q) s = .next { s with err := .bufOverflow, result := 0 })

/-! The Hamming codec. -/

/-- 43_hamming.md R172, R173: HAM.ENC returns the product of the nibble and `G`, bit by bit; with the `G` of R171 the nibble
in bits 3:0 and the three parities in bits 4, 5, 6. -/
def Obligations.HamEncGivesParities : Prop :=
  ∀ (n : Nat) (s : State), n < 16 →
    ∃ t, exec (.hamEnc n) s = .next t ∧ t = { s with err := .ok, result := t.result } ∧
      (∀ j, j < 7 → t.result.getLsbD j =
        ((n.testBit 0 && s.params.gBit 0 j) ^^ (n.testBit 1 && s.params.gBit 1 j) ^^ (n.testBit 2 && s.params.gBit 2 j) ^^
          (n.testBit 3 && s.params.gBit 3 j))) ∧
      (s.params.hamG = defaultHamG →
        (∀ j, j < 4 → t.result.getLsbD j = n.testBit j) ∧
        t.result.getLsbD 4 = (n.testBit 0 ^^ n.testBit 1 ^^ n.testBit 3) ∧
        t.result.getLsbD 5 = (n.testBit 0 ^^ n.testBit 2 ^^ n.testBit 3) ∧
        t.result.getLsbD 6 = (n.testBit 1 ^^ n.testBit 2 ^^ n.testBit 3)) ∧
      ∀ j, 7 ≤ j → t.result.getLsbD j = false

/-- 43_hamming.md R175(a), (b): with the matrices of R171, HAM.DEC of the codeword HAM.ENC returned, or of that word with one
bit flipped, returns the nibble. -/
def Obligations.HamDecCorrectsOneFlip : Prop :=
  ∀ (n : Nat) (s t : State), DefaultCode s.params → n < 16 → exec (.hamEnc n) s = .next t →
    exec (.hamDec t.result.toNat) t = .next { t with result := BitVec.ofNat 64 n } ∧
    ∀ p, p < 7 → exec (.hamDec (t.result.toNat ^^^ 2 ^ p)) t = .next { t with result := BitVec.ofNat 64 n }

/-- 43_hamming.md R174, R175(d), 60_exceptions.md R239: HAM.DEC returns the low four bits of a word with syndrome 0, else of the
word with the bit flipped whose column of `H` is the syndrome, and raises DecodeError where no column is. With the matrices of
R171 it completes on every 7-bit word with the nibble whose codeword is the word or differs from it in one bit. -/
def Obligations.HamDecFindsNearestCodeword : Prop :=
  ∀ (w : Nat) (s : State), w < 128 →
    ((∀ i, parityOf s.params w i = false) →
      exec (.hamDec w) s = .next { s with err := .ok, result := BitVec.ofNat 64 (w % 16) }) ∧
    (∀ j, (∃ i, parityOf s.params w i = true) → j < 7 → (∀ i, s.params.hBit i j = parityOf s.params w i) →
      (∀ k, k < j → ∃ i, s.params.hBit i k ≠ parityOf s.params w i) →
      exec (.hamDec w) s = .next { s with err := .ok, result := BitVec.ofNat 64 ((w ^^^ 2 ^ j) % 16) }) ∧
    ((∃ i, parityOf s.params w i = true) → (∀ j, j < 7 → ∃ i, s.params.hBit i j ≠ parityOf s.params w i) →
      exec (.hamDec w) s = .next { s with err := .decodeError, result := 0 }) ∧
    (DefaultCode s.params →
      ∃ n, n < 16 ∧ exec (.hamDec w) s = .next { s with err := .ok, result := BitVec.ofNat 64 n } ∧
        (encodeNibble s.params n = w ∨ ∃ p, p < 7 ∧ encodeNibble s.params n = w ^^^ 2 ^ p))

/-- 43_hamming.md R175(c), 60_exceptions.md R242: with the matrices of R171 two flipped bits complete with code 0 and a wrong
nibble. -/
def Obligations.HamDecTwoFlipsAreSilentlyWrong : Prop :=
  ∀ (n p r : Nat) (s : State), DefaultCode s.params → n < 16 → p < r → r < 7 →
    ∃ m, m < 16 ∧ m ≠ n ∧
      exec (.hamDec (encodeNibble s.params n ^^^ 2 ^ p ^^^ 2 ^ r)) s = .next { s with err := .ok, result := BitVec.ofNat 64 m }

/-- 43_hamming.md R176: HAM.PUTB appends the low nibble's codeword, then the high nibble's, each least significant bit
first, or raises BufOverflow before any bit is written. -/
def Obligations.HamPutbAppendsTwoCodewords : Prop :=
  ∀ (q : SeqId) (byte : Nat) (s : State), byte < 256 →
    ((s.seq q).length + 14 ≤ s.bitCap →
      ∃ t, exec (.hamPutb q byte) s = .next t ∧
        (∀ j, j < 7 → (t.seq q).get ((s.seq q).length + j) = (encodeNibble s.params (byte % 16)).testBit j) ∧
        (∀ j, j < 7 → (t.seq q).get ((s.seq q).length + 7 + j) = (encodeNibble s.params (byte / 16)).testBit j) ∧
        (∀ j, j < (s.seq q).length ∨ (s.seq q).length + 14 ≤ j → (t.seq q).get j = (s.seq q).get j) ∧
        (t.seq q).length = (s.seq q).length + 14 ∧ (∀ p, p ≠ q → t.seq p = s.seq p) ∧
        t = { s with seq0 := t.seq0, seq1 := t.seq1, err := .ok, result := 0 }) ∧
    (s.bitCap < (s.seq q).length + 14 →
      exec (.hamPutb q byte) s = .next { s with err := .bufOverflow, result := 0 })

/-- 43_hamming.md R177: HAM.GETB decodes the two halves of a complete window, and raises InvalidArgument for a window that is
not wholly inside the length. A half that does not decode raises DecodeError, which the `H` of R171 rules out (R174). -/
def Obligations.HamGetbDecodesCompleteWindows : Prop :=
  ∀ (q : SeqId) (k : Nat) (s : State),
    (14 * k + 14 ≤ (s.seq q).length →
      (∀ lo hi, decodeNibble s.params ((s.seq q).window (14 * k) 7) = some lo →
        decodeNibble s.params ((s.seq q).window (14 * k + 7) 7) = some hi →
        lo < 16 ∧ hi < 16 ∧
          exec (.hamGetb q k) s = .next { s with err := .ok, result := BitVec.ofNat 64 (lo + 16 * hi) }) ∧
      ((decodeNibble s.params ((s.seq q).window (14 * k) 7) = none ∨
          decodeNibble s.params ((s.seq q).window (14 * k + 7) 7) = none) →
        exec (.hamGetb q k) s = .next { s with err := .decodeError, result := 0 }) ∧
      (DefaultCode s.params →
        ∃ lo hi, decodeNibble s.params ((s.seq q).window (14 * k) 7) = some lo ∧
          decodeNibble s.params ((s.seq q).window (14 * k + 7) 7) = some hi)) ∧
    ((s.seq q).length < 14 * k + 14 →
      exec (.hamGetb q k) s = .next { s with err := .invalidArgument, result := 0 })

/-- 43_hamming.md R178, R179: with the matrices of R171, a byte put at a window boundary is the byte that window gives back. -/
def Obligations.PutByteReadsBackThroughItsWindow : Prop :=
  ∀ (q : SeqId) (k byte : Nat) (s : State), DefaultCode s.params → byte < 256 → (s.seq q).length = 14 * k →
    14 * k + 14 ≤ s.bitCap →
    ∃ t, runCommands [.hamPutb q byte, .hamGetb q k] s = .next t ∧ t.err = .ok ∧ t.result = BitVec.ofNat 64 byte

/-! The scanner. -/

/-- 44_scanner.md R191: SCAN.INIT sets the order and rewinds the scanner; an order above ORDER_MAX is InvalidArgument with no
state changed. -/
def Obligations.ScanInitSetsOrderAndRewinds : Prop :=
  ∀ (o : Nat) (s : State),
    (o ≤ s.orderMax →
      ∃ t, exec (.scanInit o) s = .next t ∧ t.order.toNat = o ∧
        t = { s with order := t.order, scanBx := 0, scanBy := 0, scanX := 0, scanY := 0, enc := 0, chg := 0,
                     eom := false, err := .ok, result := 0 }) ∧
    (s.orderMax < o → exec (.scanInit o) s = .next { s with err := .invalidArgument, result := 0 })

/-- 44_scanner.md R192, R193, R200: SCAN.ADV accepts the next eligible DC word of the enumeration and leaves the cursor just
past it, or raises EndOfMedium with the scan at its end. -/
def Obligations.ScanAdvAcceptsNextEligible : Prop :=
  ∀ s : State, s.Inv →
    (∀ a, s.eligibleAhead.head? = some a →
      exec .scanAdv s = .next { s.pastWord a with err := .ok, result := BitVec.ofNat 64 a } ∧
      a < s.width.toNat * s.height.toNat) ∧
    (s.eligibleAhead = [] → exec .scanAdv s = .next { s.atEnd with err := .endOfMedium, result := 0 })

/-- 44_scanner.md R194: SCAN.RDBIT returns bit `ORDER` of the magnitude at the next position and changes only the cursor, or
raises EndOfMedium. -/
def Obligations.ScanRdbitReadsNextPosition : Prop :=
  ∀ s : State, s.Inv →
    (∀ a, s.eligibleAhead.head? = some a →
      exec .scanRdbit s = .next { s.pastWord a with
                                  err := .ok
                                  result :=
                                    if (units s.num (s.planeAt a) / unitScale s.num).testBit s.order.toNat then 1 else 0 }) ∧
    (s.eligibleAhead = [] → exec .scanRdbit s = .next { s.atEnd with err := .endOfMedium, result := 0 })

/-- 44_scanner.md R195: SCAN.WRBIT rewrites the word at the next position and no other, counts the bit, and returns whether
it flipped, or raises EndOfMedium with plane and counters unchanged. -/
def Obligations.ScanWrbitWritesNextPosition : Prop :=
  ∀ (b : Bool) (s : State), s.Inv →
    (∀ a, s.eligibleAhead.head? = some a →
      ∃ t, exec (.scanWrbit b) s = .next t ∧
        t.planeAt a = rewriteBit s.num (s.planeAt a) s.order.toNat b ∧
        (∀ a', a' ≠ a → t.planeAt a' = s.planeAt a') ∧
        t.enc.toNat = s.enc.toNat + 1 ∧
        t.chg.toNat = s.chg.toNat + (carriedBit s.num (s.planeAt a) s.order.toNat != b).toNat ∧
        t = { s.pastWord a with plane := t.plane, enc := t.enc, chg := t.chg, err := .ok,
                                result := if carriedBit s.num (s.planeAt a) s.order.toNat = b then 0 else 1 }) ∧
    (s.eligibleAhead = [] → exec (.scanWrbit b) s = .next { s.atEnd with err := .endOfMedium, result := 0 })

/-- 44_scanner.md R196: SCAN.STAT returns `+0.0` when nothing was encountered, else `CHG / ENC`, a number from 0 to 1: 0 for
no flip, 1.0 when every bit flipped. -/
def Obligations.ScanStatReturnsRatio : Prop :=
  ∀ s : State,
    ∃ t, exec .scanStat s = .next t ∧ t = { s with err := .ok, result := t.result } ∧
      (s.enc = 0 → t.result = 0) ∧
      (s.enc ≠ 0 → t.result = fdiv s.num (ofInt s.num s.chg.toNat) (ofInt s.num s.enc.toNat)) ∧
      (s.enc ≠ 0 → s.chg = 0 → t.result = 0) ∧
      (s.enc ≠ 0 → s.chg = s.enc → t.result = ofInt s.num 1 ∧ (s.num = .binary64 → t.result = 0x3FF0000000000000)) ∧
      (s.chg.toNat ≤ s.enc.toNat →
        isNaN s.num t.result = false ∧ isNegative s.num t.result = false ∧ units s.num t.result ≤ unitScale s.num)

/-- 44_scanner.md R197: SCAN.WRBUF writes the sequence's bits to the next positions in order. With enough positions it
completes and returns the length; otherwise it raises EndOfMedium with the number written, and what was written stays. -/
def Obligations.ScanWrbufWritesSequenceInOrder : Prop :=
  ∀ (q : SeqId) (s : State), s.Inv →
    ∃ t, exec (.scanWrbuf q) s = .next t ∧
      (∀ j, j < min (s.seq q).length s.eligibleAhead.length →
        t.planeAt (s.eligibleAhead.getD j 0) =
          rewriteBit s.num (s.planeAt (s.eligibleAhead.getD j 0)) s.order.toNat ((s.seq q).get j)) ∧
      (∀ a, a ∉ s.eligibleAhead.take (s.seq q).length → t.planeAt a = s.planeAt a) ∧
      t.enc.toNat = s.enc.toNat + min (s.seq q).length s.eligibleAhead.length ∧
      t.chg.toNat = s.chg.toNat + (List.range (min (s.seq q).length s.eligibleAhead.length)).countP (fun j =>
        carriedBit s.num (s.planeAt (s.eligibleAhead.getD j 0)) s.order.toNat != (s.seq q).get j) ∧
      ((s.seq q).length = 0 →
        t = { s with err := .ok, result := 0 }) ∧
      (0 < (s.seq q).length → (s.seq q).length ≤ s.eligibleAhead.length →
        t = { s.pastNth ((s.seq q).length - 1) with plane := t.plane, enc := t.enc, chg := t.chg, err := .ok,
                                                    result := BitVec.ofNat 64 (s.seq q).length }) ∧
      (s.eligibleAhead.length < (s.seq q).length →
        t = { s.atEnd with plane := t.plane, enc := t.enc, chg := t.chg, err := .endOfMedium,
                           result := BitVec.ofNat 64 s.eligibleAhead.length })

/-- 44_scanner.md R198: SCAN.RDBUF appends the bits of the next positions until the medium ends, which completes it, or
until the sequence is full, which raises BufOverflow with the bits appended so far kept and EOM unchanged. -/
def Obligations.ScanRdbufAppendsUntilTheEnd : Prop :=
  ∀ (q : SeqId) (s : State), s.Inv →
    ∃ t, exec (.scanRdbuf q) s = .next t ∧
      (t.seq q).length =
        (s.seq q).length + min s.eligibleAhead.length (s.bitCap - (s.seq q).length) ∧
      (∀ j, j < (s.seq q).length → (t.seq q).get j = (s.seq q).get j) ∧
      (∀ j, j < min s.eligibleAhead.length (s.bitCap - (s.seq q).length) →
        (t.seq q).get ((s.seq q).length + j) =
          carriedBit s.num (s.planeAt (s.eligibleAhead.getD j 0)) s.order.toNat) ∧
      (∀ p, p ≠ q → t.seq p = s.seq p) ∧
      (s.eligibleAhead.length < s.bitCap - (s.seq q).length →
        t = { s.atEnd with seq0 := t.seq0, seq1 := t.seq1, err := .ok,
                           result := BitVec.ofNat 64 s.eligibleAhead.length }) ∧
      (s.bitCap = (s.seq q).length → t = { s with err := .bufOverflow, result := 0 }) ∧
      (0 < s.bitCap - (s.seq q).length → s.bitCap - (s.seq q).length ≤ s.eligibleAhead.length →
        t = { s.pastNth (s.bitCap - (s.seq q).length - 1) with
                seq0 := t.seq0
                seq1 := t.seq1
                err := .bufOverflow
                result := BitVec.ofNat 64 (s.bitCap - (s.seq q).length) })

/-- 44_scanner.md R199, R202: SCAN.COUNT returns exactly the number of times the scan advances after SCAN.INIT, using and
changing no scanner state; an order above ORDER_MAX is InvalidArgument. -/
def Obligations.ScanCountEqualsSuccessfulAdvances : Prop :=
  ∀ (o : Nat) (s : State), s.Inv →
    (o ≤ s.orderMax →
      ∃ n, exec (.scanCount o) s = .next { s with err := .ok, result := BitVec.ofNat 64 n } ∧ n < 2 ^ 26 ∧
        ∀ k, ∃ t, runCommands (.scanInit o :: List.replicate k .scanAdv) s = .next t ∧
          (t.err = .ok ↔ k ≤ n) ∧ (t.err = .endOfMedium ↔ n < k) ∧ ∀ a, t.planeAt a = s.planeAt a) ∧
    (s.orderMax < o → exec (.scanCount o) s = .next { s with err := .invalidArgument, result := 0 })

/-- 41_order_predicate.md R141, 44_scanner.md R199: at the orders from 3 to ORDER_MAX nothing is eligible, so the count is 0
and the first advance after SCAN.INIT raises EndOfMedium. -/
def Obligations.OrdersAboveTwoYieldNothing : Prop :=
  ∀ (o : Nat) (s : State), s.Inv → 3 ≤ o → o ≤ s.orderMax →
    exec (.scanCount o) s = .next { s with err := .ok, result := 0 } ∧
    ∃ t, runCommands [.scanInit o, .scanAdv] s = .next t ∧ t.err = .endOfMedium ∧ t.eom = true

/-- 44_scanner.md R201: after `n` bits are written, a new scan reads the `n` bits back in order, then the bits of the
untouched positions, then raises EndOfMedium. -/
def Obligations.WrittenBitsReadBackInOrder : Prop :=
  ∀ (o : Nat) (bits : List Bool) (s : State), s.Inv → o ≤ s.orderMax → bits.length ≤ (s.positions o).length →
    ∃ t, runCommands (.scanInit o :: bits.map Instr.scanWrbit ++ [.scanInit o]) s = .next t ∧ t.err = .ok ∧
      ∀ k, ∃ u, runCommands (List.replicate (k + 1) .scanRdbit) t = .next u ∧
        (k < bits.length → u.err = .ok ∧ u.result = if bits.getD k false then 1 else 0) ∧
        (bits.length ≤ k → k < (s.positions o).length →
          u.err = .ok ∧ u.result = if carriedBit s.num (s.planeAt ((s.positions o).getD k 0)) o then 1 else 0) ∧
        ((s.positions o).length ≤ k → u.err = .endOfMedium)

/-- 44_scanner.md R203: a scanner command changes no block buffer, dimensions or sequence (but SCAN.RDBUF's), moves the
cursor only forwards (but SCAN.INIT), and changes a plane word only if it is the DC word of a full block and eligible, and
then only in bit ORDER of its magnitude. It reads no other word than the DC words of full blocks: on a plane that agrees on
those it answers the same and leaves the same but for the plane, whose DC words agree again. -/
def Obligations.ScannerWritesOnlyEligibleDcWords : Prop :=
  ∀ (i : Instr) (s t : State), s.Inv → isScanCommand i = true → exec i s = .next t →
    t.blk = s.blk ∧ t.width = s.width ∧ t.height = s.height ∧
    (∀ q, i ≠ .scanRdbuf q → t.seq q = s.seq q) ∧
    ((∀ o, i ≠ .scanInit o) → s.blocksPassed ≤ t.blocksPassed) ∧
    (∀ a, t.planeAt a ≠ s.planeAt a →
      a ∈ dcAddrs s.width.toNat s.height.toNat ∧ isEligible s.num (s.planeAt a) s.order.toNat = true ∧
      isEligible s.num (t.planeAt a) s.order.toNat = true ∧
      isNegative s.num (t.planeAt a) = isNegative s.num (s.planeAt a) ∧
      units s.num (t.planeAt a) % unitScale s.num = units s.num (s.planeAt a) % unitScale s.num ∧
      ∀ j, j ≠ s.order.toNat →
        (units s.num (t.planeAt a) / unitScale s.num).testBit j = (units s.num (s.planeAt a) / unitScale s.num).testBit j) ∧
    ∀ p : Memory, { s with plane := p }.Inv →
      (∀ a ∈ dcAddrs s.width.toNat s.height.toNat, { s with plane := p }.planeAt a = s.planeAt a) →
      ∃ u, exec i { s with plane := p } = .next u ∧ u = { t with plane := u.plane } ∧
        ∀ a ∈ dcAddrs s.width.toNat s.height.toNat, u.planeAt a = t.planeAt a

/-! Framing. -/

/-- 45_framing.md R220: FRM.CAP returns the quotient by 14 truncated toward zero, less 4, sign-extended. -/
def Obligations.FrmCapTruncatesTowardZero : Prop :=
  ∀ (n : Int) (s : State), -(2 ^ 31) ≤ n → n < 2 ^ 31 →
    ∃ t, exec (.frmCap n) s = .next t ∧ t = { s with err := .ok, result := t.result } ∧
      (0 ≤ n → 14 * (t.result.toInt + 4) ≤ n ∧ n < 14 * (t.result.toInt + 4) + 14) ∧
      (n < 0 → n ≤ 14 * (t.result.toInt + 4) ∧ 14 * (t.result.toInt + 4) - 14 < n) ∧
      -153391693 ≤ t.result.toInt ∧ t.result.toInt ≤ 153391685

/-- 45_framing.md R224: the capacity is monotone, at most -4 for no or negative room, and tight: `k` bytes with their
terminator fit in `n` positions exactly when `k` is at most the capacity. -/
def Obligations.CapacityIsMonotoneAndTight : Prop :=
  ∀ (n m : Int) (s t u : State), -(2 ^ 31) ≤ n → n ≤ m → m < 2 ^ 31 →
    exec (.frmCap n) s = .next t → exec (.frmCap m) s = .next u →
    t.result.toInt ≤ u.result.toInt ∧
    (n ≤ 0 → t.result.toInt ≤ -4) ∧
    (0 ≤ n → ∀ k : Nat, 14 * ((k : Int) + 4) ≤ n ↔ (k : Int) ≤ t.result.toInt)

/-- 45_framing.md R222, R223, R225: with the matrices of R171 and a sequence that holds a byte, `imprint` of a message completes
where the positions are enough, and `extract` at the same order then gives the message back if none of its bytes is zero;
`imprint` raises EndOfMedium where they are too few, and InvalidArgument, the plane untouched, for an encodable order above
ORDER_MAX. Longer messages than a sequence holds go in pieces, and so does the reading of a longer medium, for which a bit
index field must reach the sequence's bits (log 22). -/
def Obligations.ImprintThenExtractGivesTheMessage : Prop :=
  ∀ (o : Nat) (bytes : List MessageByte) (s : State), s.Inv → DefaultCode s.params → 14 ≤ s.bitCap →
    (o ≤ s.orderMax → 14 * (bytes.length + 4) ≤ (s.positions o).length →
      ∃ t, imprint o bytes s = .done t () ∧
        ((∀ b ∈ bytes, b ≠ 0) →
          s.bitCap ≤ 2 ^ s.widths.idxBits.val ∨ (s.positions o).length < s.bitCap →
          ∃ u, extract o t = .done u bytes)) ∧
    (o ≤ s.orderMax → (s.positions o).length < 14 * (bytes.length + 4) →
      ∃ t, imprint o bytes s = .raised t ∧ t.err = .endOfMedium) ∧
    (s.orderMax < o → o < 256 →
      ∃ t, imprint o bytes s = .raised t ∧ t.err = .invalidArgument ∧ ∀ a, t.planeAt a = s.planeAt a)
end

