-- ==== Sys2Proof/Laws/State.lean ====
section
/-! SUPPORT. One lemma a field an update of the state, each true by unfolding the update once. -/

namespace Sys2Proof.Machine

/-! `State.ret` -/

@[simp] theorem State.ret_blk (s : State) (v : Word) : (s.ret v).blk = s.blk := rfl
@[simp] theorem State.ret_plane (s : State) (v : Word) : (s.ret v).plane = s.plane := rfl
@[simp] theorem State.ret_seq0 (s : State) (v : Word) : (s.ret v).seq0 = s.seq0 := rfl
@[simp] theorem State.ret_seq1 (s : State) (v : Word) : (s.ret v).seq1 = s.seq1 := rfl
@[simp] theorem State.ret_width (s : State) (v : Word) : (s.ret v).width = s.width := rfl
@[simp] theorem State.ret_height (s : State) (v : Word) : (s.ret v).height = s.height := rfl
@[simp] theorem State.ret_order (s : State) (v : Word) : (s.ret v).order = s.order := rfl
@[simp] theorem State.ret_scanBx (s : State) (v : Word) : (s.ret v).scanBx = s.scanBx := rfl
@[simp] theorem State.ret_scanBy (s : State) (v : Word) : (s.ret v).scanBy = s.scanBy := rfl
@[simp] theorem State.ret_scanX (s : State) (v : Word) : (s.ret v).scanX = s.scanX := rfl
@[simp] theorem State.ret_scanY (s : State) (v : Word) : (s.ret v).scanY = s.scanY := rfl
@[simp] theorem State.ret_eom (s : State) (v : Word) : (s.ret v).eom = s.eom := rfl
@[simp] theorem State.ret_enc (s : State) (v : Word) : (s.ret v).enc = s.enc := rfl
@[simp] theorem State.ret_chg (s : State) (v : Word) : (s.ret v).chg = s.chg := rfl
@[simp] theorem State.ret_err (s : State) (v : Word) : (s.ret v).err = .ok := rfl
@[simp] theorem State.ret_result (s : State) (v : Word) : (s.ret v).result = v := rfl
@[simp] theorem State.ret_seqNo (s : State) (v : Word) : (s.ret v).seqNo = s.seqNo := rfl
@[simp] theorem State.ret_pending (s : State) (v : Word) : (s.ret v).pending = s.pending := rfl
@[simp] theorem State.ret_responses (s : State) (v : Word) : (s.ret v).responses = s.responses := rfl
@[simp] theorem State.ret_epoch (s : State) (v : Word) : (s.ret v).epoch = s.epoch := rfl
@[simp] theorem State.ret_params (s : State) (v : Word) : (s.ret v).params = s.params := rfl
@[simp] theorem State.ret_num (s : State) (v : Word) : (s.ret v).num = s.num := rfl
@[simp] theorem State.ret_orderMax (s : State) (v : Word) : (s.ret v).orderMax = s.orderMax := rfl
@[simp] theorem State.ret_planeWords (s : State) (v : Word) : (s.ret v).planeWords = s.planeWords := rfl
@[simp] theorem State.ret_bitCap (s : State) (v : Word) : (s.ret v).bitCap = s.bitCap := rfl
@[simp] theorem State.ret_widths (s : State) (v : Word) : (s.ret v).widths = s.widths := rfl
@[simp] theorem State.ret_planeAt (s : State) (v : Word) (a' : Nat) : (s.ret v).planeAt a' = s.planeAt a' := rfl
@[simp] theorem State.ret_seq (s : State) (v : Word) (q : SeqId) : (s.ret v).seq q = s.seq q := by cases q <;> rfl

/-! `State.raise` -/

@[simp] theorem State.raise_blk (s : State) (k : ErrCode) (r : Word) : (s.raise k r).blk = s.blk := rfl
@[simp] theorem State.raise_plane (s : State) (k : ErrCode) (r : Word) : (s.raise k r).plane = s.plane := rfl
@[simp] theorem State.raise_seq0 (s : State) (k : ErrCode) (r : Word) : (s.raise k r).seq0 = s.seq0 := rfl
@[simp] theorem State.raise_seq1 (s : State) (k : ErrCode) (r : Word) : (s.raise k r).seq1 = s.seq1 := rfl
@[simp] theorem State.raise_width (s : State) (k : ErrCode) (r : Word) : (s.raise k r).width = s.width := rfl
@[simp] theorem State.raise_height (s : State) (k : ErrCode) (r : Word) : (s.raise k r).height = s.height := rfl
@[simp] theorem State.raise_order (s : State) (k : ErrCode) (r : Word) : (s.raise k r).order = s.order := rfl
@[simp] theorem State.raise_scanBx (s : State) (k : ErrCode) (r : Word) : (s.raise k r).scanBx = s.scanBx := rfl
@[simp] theorem State.raise_scanBy (s : State) (k : ErrCode) (r : Word) : (s.raise k r).scanBy = s.scanBy := rfl
@[simp] theorem State.raise_scanX (s : State) (k : ErrCode) (r : Word) : (s.raise k r).scanX = s.scanX := rfl
@[simp] theorem State.raise_scanY (s : State) (k : ErrCode) (r : Word) : (s.raise k r).scanY = s.scanY := rfl
@[simp] theorem State.raise_eom (s : State) (k : ErrCode) (r : Word) : (s.raise k r).eom = s.eom := rfl
@[simp] theorem State.raise_enc (s : State) (k : ErrCode) (r : Word) : (s.raise k r).enc = s.enc := rfl
@[simp] theorem State.raise_chg (s : State) (k : ErrCode) (r : Word) : (s.raise k r).chg = s.chg := rfl
@[simp] theorem State.raise_err (s : State) (k : ErrCode) (r : Word) : (s.raise k r).err = k := rfl
@[simp] theorem State.raise_result (s : State) (k : ErrCode) (r : Word) : (s.raise k r).result = r := rfl
@[simp] theorem State.raise_seqNo (s : State) (k : ErrCode) (r : Word) : (s.raise k r).seqNo = s.seqNo := rfl
@[simp] theorem State.raise_pending (s : State) (k : ErrCode) (r : Word) : (s.raise k r).pending = s.pending := rfl
@[simp] theorem State.raise_responses (s : State) (k : ErrCode) (r : Word) : (s.raise k r).responses = s.responses := rfl
@[simp] theorem State.raise_epoch (s : State) (k : ErrCode) (r : Word) : (s.raise k r).epoch = s.epoch := rfl
@[simp] theorem State.raise_params (s : State) (k : ErrCode) (r : Word) : (s.raise k r).params = s.params := rfl
@[simp] theorem State.raise_num (s : State) (k : ErrCode) (r : Word) : (s.raise k r).num = s.num := rfl
@[simp] theorem State.raise_orderMax (s : State) (k : ErrCode) (r : Word) : (s.raise k r).orderMax = s.orderMax := rfl
@[simp] theorem State.raise_planeWords (s : State) (k : ErrCode) (r : Word) : (s.raise k r).planeWords = s.planeWords := rfl
@[simp] theorem State.raise_bitCap (s : State) (k : ErrCode) (r : Word) : (s.raise k r).bitCap = s.bitCap := rfl
@[simp] theorem State.raise_widths (s : State) (k : ErrCode) (r : Word) : (s.raise k r).widths = s.widths := rfl
@[simp] theorem State.raise_planeAt (s : State) (k : ErrCode) (r : Word) (a' : Nat) : (s.raise k r).planeAt a' = s.planeAt a' := rfl
@[simp] theorem State.raise_seq (s : State) (k : ErrCode) (r : Word) (q : SeqId) : (s.raise k r).seq q = s.seq q := by cases q <;> rfl

/-! `State.bumpSeq` -/

@[simp] theorem State.bumpSeq_blk (s : State) : (s.bumpSeq).blk = s.blk := rfl
@[simp] theorem State.bumpSeq_plane (s : State) : (s.bumpSeq).plane = s.plane := rfl
@[simp] theorem State.bumpSeq_seq0 (s : State) : (s.bumpSeq).seq0 = s.seq0 := rfl
@[simp] theorem State.bumpSeq_seq1 (s : State) : (s.bumpSeq).seq1 = s.seq1 := rfl
@[simp] theorem State.bumpSeq_width (s : State) : (s.bumpSeq).width = s.width := rfl
@[simp] theorem State.bumpSeq_height (s : State) : (s.bumpSeq).height = s.height := rfl
@[simp] theorem State.bumpSeq_order (s : State) : (s.bumpSeq).order = s.order := rfl
@[simp] theorem State.bumpSeq_scanBx (s : State) : (s.bumpSeq).scanBx = s.scanBx := rfl
@[simp] theorem State.bumpSeq_scanBy (s : State) : (s.bumpSeq).scanBy = s.scanBy := rfl
@[simp] theorem State.bumpSeq_scanX (s : State) : (s.bumpSeq).scanX = s.scanX := rfl
@[simp] theorem State.bumpSeq_scanY (s : State) : (s.bumpSeq).scanY = s.scanY := rfl
@[simp] theorem State.bumpSeq_eom (s : State) : (s.bumpSeq).eom = s.eom := rfl
@[simp] theorem State.bumpSeq_enc (s : State) : (s.bumpSeq).enc = s.enc := rfl
@[simp] theorem State.bumpSeq_chg (s : State) : (s.bumpSeq).chg = s.chg := rfl
@[simp] theorem State.bumpSeq_err (s : State) : (s.bumpSeq).err = s.err := rfl
@[simp] theorem State.bumpSeq_result (s : State) : (s.bumpSeq).result = s.result := rfl
@[simp] theorem State.bumpSeq_seqNo (s : State) : (s.bumpSeq).seqNo = s.seqNo + 1 := rfl
@[simp] theorem State.bumpSeq_pending (s : State) : (s.bumpSeq).pending = s.pending := rfl
@[simp] theorem State.bumpSeq_responses (s : State) : (s.bumpSeq).responses = s.responses := rfl
@[simp] theorem State.bumpSeq_epoch (s : State) : (s.bumpSeq).epoch = s.epoch := rfl
@[simp] theorem State.bumpSeq_params (s : State) : (s.bumpSeq).params = s.params := rfl
@[simp] theorem State.bumpSeq_num (s : State) : (s.bumpSeq).num = s.num := rfl
@[simp] theorem State.bumpSeq_orderMax (s : State) : (s.bumpSeq).orderMax = s.orderMax := rfl
@[simp] theorem State.bumpSeq_planeWords (s : State) : (s.bumpSeq).planeWords = s.planeWords := rfl
@[simp] theorem State.bumpSeq_bitCap (s : State) : (s.bumpSeq).bitCap = s.bitCap := rfl
@[simp] theorem State.bumpSeq_widths (s : State) : (s.bumpSeq).widths = s.widths := rfl
@[simp] theorem State.bumpSeq_planeAt (s : State) (a' : Nat) : (s.bumpSeq).planeAt a' = s.planeAt a' := rfl
@[simp] theorem State.bumpSeq_seq (s : State) (q : SeqId) : (s.bumpSeq).seq q = s.seq q := by cases q <;> rfl

/-! `State.respond` -/

@[simp] theorem State.respond_blk (s : State) (r : Response) : (s.respond r).blk = s.blk := rfl
@[simp] theorem State.respond_plane (s : State) (r : Response) : (s.respond r).plane = s.plane := rfl
@[simp] theorem State.respond_seq0 (s : State) (r : Response) : (s.respond r).seq0 = s.seq0 := rfl
@[simp] theorem State.respond_seq1 (s : State) (r : Response) : (s.respond r).seq1 = s.seq1 := rfl
@[simp] theorem State.respond_width (s : State) (r : Response) : (s.respond r).width = s.width := rfl
@[simp] theorem State.respond_height (s : State) (r : Response) : (s.respond r).height = s.height := rfl
@[simp] theorem State.respond_order (s : State) (r : Response) : (s.respond r).order = s.order := rfl
@[simp] theorem State.respond_scanBx (s : State) (r : Response) : (s.respond r).scanBx = s.scanBx := rfl
@[simp] theorem State.respond_scanBy (s : State) (r : Response) : (s.respond r).scanBy = s.scanBy := rfl
@[simp] theorem State.respond_scanX (s : State) (r : Response) : (s.respond r).scanX = s.scanX := rfl
@[simp] theorem State.respond_scanY (s : State) (r : Response) : (s.respond r).scanY = s.scanY := rfl
@[simp] theorem State.respond_eom (s : State) (r : Response) : (s.respond r).eom = s.eom := rfl
@[simp] theorem State.respond_enc (s : State) (r : Response) : (s.respond r).enc = s.enc := rfl
@[simp] theorem State.respond_chg (s : State) (r : Response) : (s.respond r).chg = s.chg := rfl
@[simp] theorem State.respond_err (s : State) (r : Response) : (s.respond r).err = s.err := rfl
@[simp] theorem State.respond_result (s : State) (r : Response) : (s.respond r).result = s.result := rfl
@[simp] theorem State.respond_seqNo (s : State) (r : Response) : (s.respond r).seqNo = s.seqNo := rfl
@[simp] theorem State.respond_pending (s : State) (r : Response) : (s.respond r).pending = s.pending := rfl
@[simp] theorem State.respond_responses (s : State) (r : Response) : (s.respond r).responses = s.responses ++ [r] := rfl
@[simp] theorem State.respond_epoch (s : State) (r : Response) : (s.respond r).epoch = s.epoch := rfl
@[simp] theorem State.respond_params (s : State) (r : Response) : (s.respond r).params = s.params := rfl
@[simp] theorem State.respond_num (s : State) (r : Response) : (s.respond r).num = s.num := rfl
@[simp] theorem State.respond_orderMax (s : State) (r : Response) : (s.respond r).orderMax = s.orderMax := rfl
@[simp] theorem State.respond_planeWords (s : State) (r : Response) : (s.respond r).planeWords = s.planeWords := rfl
@[simp] theorem State.respond_bitCap (s : State) (r : Response) : (s.respond r).bitCap = s.bitCap := rfl
@[simp] theorem State.respond_widths (s : State) (r : Response) : (s.respond r).widths = s.widths := rfl
@[simp] theorem State.respond_planeAt (s : State) (r : Response) (a' : Nat) : (s.respond r).planeAt a' = s.planeAt a' := rfl
@[simp] theorem State.respond_seq (s : State) (r : Response) (q : SeqId) : (s.respond r).seq q = s.seq q := by cases q <;> rfl

/-! `State.setPending` -/

@[simp] theorem State.setPending_blk (s : State) (ms : List HostMove) : (s.setPending ms).blk = s.blk := rfl
@[simp] theorem State.setPending_plane (s : State) (ms : List HostMove) : (s.setPending ms).plane = s.plane := rfl
@[simp] theorem State.setPending_seq0 (s : State) (ms : List HostMove) : (s.setPending ms).seq0 = s.seq0 := rfl
@[simp] theorem State.setPending_seq1 (s : State) (ms : List HostMove) : (s.setPending ms).seq1 = s.seq1 := rfl
@[simp] theorem State.setPending_width (s : State) (ms : List HostMove) : (s.setPending ms).width = s.width := rfl
@[simp] theorem State.setPending_height (s : State) (ms : List HostMove) : (s.setPending ms).height = s.height := rfl
@[simp] theorem State.setPending_order (s : State) (ms : List HostMove) : (s.setPending ms).order = s.order := rfl
@[simp] theorem State.setPending_scanBx (s : State) (ms : List HostMove) : (s.setPending ms).scanBx = s.scanBx := rfl
@[simp] theorem State.setPending_scanBy (s : State) (ms : List HostMove) : (s.setPending ms).scanBy = s.scanBy := rfl
@[simp] theorem State.setPending_scanX (s : State) (ms : List HostMove) : (s.setPending ms).scanX = s.scanX := rfl
@[simp] theorem State.setPending_scanY (s : State) (ms : List HostMove) : (s.setPending ms).scanY = s.scanY := rfl
@[simp] theorem State.setPending_eom (s : State) (ms : List HostMove) : (s.setPending ms).eom = s.eom := rfl
@[simp] theorem State.setPending_enc (s : State) (ms : List HostMove) : (s.setPending ms).enc = s.enc := rfl
@[simp] theorem State.setPending_chg (s : State) (ms : List HostMove) : (s.setPending ms).chg = s.chg := rfl
@[simp] theorem State.setPending_err (s : State) (ms : List HostMove) : (s.setPending ms).err = s.err := rfl
@[simp] theorem State.setPending_result (s : State) (ms : List HostMove) : (s.setPending ms).result = s.result := rfl
@[simp] theorem State.setPending_seqNo (s : State) (ms : List HostMove) : (s.setPending ms).seqNo = s.seqNo := rfl
@[simp] theorem State.setPending_pending (s : State) (ms : List HostMove) : (s.setPending ms).pending = ms := rfl
@[simp] theorem State.setPending_responses (s : State) (ms : List HostMove) : (s.setPending ms).responses = s.responses := rfl
@[simp] theorem State.setPending_epoch (s : State) (ms : List HostMove) : (s.setPending ms).epoch = s.epoch := rfl
@[simp] theorem State.setPending_params (s : State) (ms : List HostMove) : (s.setPending ms).params = s.params := rfl
@[simp] theorem State.setPending_num (s : State) (ms : List HostMove) : (s.setPending ms).num = s.num := rfl
@[simp] theorem State.setPending_orderMax (s : State) (ms : List HostMove) : (s.setPending ms).orderMax = s.orderMax := rfl
@[simp] theorem State.setPending_planeWords (s : State) (ms : List HostMove) : (s.setPending ms).planeWords = s.planeWords := rfl
@[simp] theorem State.setPending_bitCap (s : State) (ms : List HostMove) : (s.setPending ms).bitCap = s.bitCap := rfl
@[simp] theorem State.setPending_widths (s : State) (ms : List HostMove) : (s.setPending ms).widths = s.widths := rfl
@[simp] theorem State.setPending_planeAt (s : State) (ms : List HostMove) (a' : Nat) : (s.setPending ms).planeAt a' = s.planeAt a' := rfl
@[simp] theorem State.setPending_seq (s : State) (ms : List HostMove) (q : SeqId) : (s.setPending ms).seq q = s.seq q := by cases q <;> rfl

/-! `State.setPlaneAt` -/

@[simp] theorem State.setPlaneAt_blk (s : State) (a : Nat) (w : Word) : (s.setPlaneAt a w).blk = s.blk := rfl
@[simp] theorem State.setPlaneAt_plane (s : State) (a : Nat) (w : Word) : (s.setPlaneAt a w).plane = Memory.store s.plane a w := rfl
@[simp] theorem State.setPlaneAt_seq0 (s : State) (a : Nat) (w : Word) : (s.setPlaneAt a w).seq0 = s.seq0 := rfl
@[simp] theorem State.setPlaneAt_seq1 (s : State) (a : Nat) (w : Word) : (s.setPlaneAt a w).seq1 = s.seq1 := rfl
@[simp] theorem State.setPlaneAt_width (s : State) (a : Nat) (w : Word) : (s.setPlaneAt a w).width = s.width := rfl
@[simp] theorem State.setPlaneAt_height (s : State) (a : Nat) (w : Word) : (s.setPlaneAt a w).height = s.height := rfl
@[simp] theorem State.setPlaneAt_order (s : State) (a : Nat) (w : Word) : (s.setPlaneAt a w).order = s.order := rfl
@[simp] theorem State.setPlaneAt_scanBx (s : State) (a : Nat) (w : Word) : (s.setPlaneAt a w).scanBx = s.scanBx := rfl
@[simp] theorem State.setPlaneAt_scanBy (s : State) (a : Nat) (w : Word) : (s.setPlaneAt a w).scanBy = s.scanBy := rfl
@[simp] theorem State.setPlaneAt_scanX (s : State) (a : Nat) (w : Word) : (s.setPlaneAt a w).scanX = s.scanX := rfl
@[simp] theorem State.setPlaneAt_scanY (s : State) (a : Nat) (w : Word) : (s.setPlaneAt a w).scanY = s.scanY := rfl
@[simp] theorem State.setPlaneAt_eom (s : State) (a : Nat) (w : Word) : (s.setPlaneAt a w).eom = s.eom := rfl
@[simp] theorem State.setPlaneAt_enc (s : State) (a : Nat) (w : Word) : (s.setPlaneAt a w).enc = s.enc := rfl
@[simp] theorem State.setPlaneAt_chg (s : State) (a : Nat) (w : Word) : (s.setPlaneAt a w).chg = s.chg := rfl
@[simp] theorem State.setPlaneAt_err (s : State) (a : Nat) (w : Word) : (s.setPlaneAt a w).err = s.err := rfl
@[simp] theorem State.setPlaneAt_result (s : State) (a : Nat) (w : Word) : (s.setPlaneAt a w).result = s.result := rfl
@[simp] theorem State.setPlaneAt_seqNo (s : State) (a : Nat) (w : Word) : (s.setPlaneAt a w).seqNo = s.seqNo := rfl
@[simp] theorem State.setPlaneAt_pending (s : State) (a : Nat) (w : Word) : (s.setPlaneAt a w).pending = s.pending := rfl
@[simp] theorem State.setPlaneAt_responses (s : State) (a : Nat) (w : Word) : (s.setPlaneAt a w).responses = s.responses := rfl
@[simp] theorem State.setPlaneAt_epoch (s : State) (a : Nat) (w : Word) : (s.setPlaneAt a w).epoch = s.epoch := rfl
@[simp] theorem State.setPlaneAt_params (s : State) (a : Nat) (w : Word) : (s.setPlaneAt a w).params = s.params := rfl
@[simp] theorem State.setPlaneAt_num (s : State) (a : Nat) (w : Word) : (s.setPlaneAt a w).num = s.num := rfl
@[simp] theorem State.setPlaneAt_orderMax (s : State) (a : Nat) (w : Word) : (s.setPlaneAt a w).orderMax = s.orderMax := rfl
@[simp] theorem State.setPlaneAt_planeWords (s : State) (a : Nat) (w : Word) : (s.setPlaneAt a w).planeWords = s.planeWords := rfl
@[simp] theorem State.setPlaneAt_bitCap (s : State) (a : Nat) (w : Word) : (s.setPlaneAt a w).bitCap = s.bitCap := rfl
@[simp] theorem State.setPlaneAt_widths (s : State) (a : Nat) (w : Word) : (s.setPlaneAt a w).widths = s.widths := rfl
@[simp] theorem State.setPlaneAt_seq (s : State) (a : Nat) (w : Word) (q : SeqId) : (s.setPlaneAt a w).seq q = s.seq q := by cases q <;> rfl

/-! `State.setBlk` -/

@[simp] theorem State.setBlk_blk (s : State) (b : Block) : (s.setBlk b).blk = b := rfl
@[simp] theorem State.setBlk_plane (s : State) (b : Block) : (s.setBlk b).plane = s.plane := rfl
@[simp] theorem State.setBlk_seq0 (s : State) (b : Block) : (s.setBlk b).seq0 = s.seq0 := rfl
@[simp] theorem State.setBlk_seq1 (s : State) (b : Block) : (s.setBlk b).seq1 = s.seq1 := rfl
@[simp] theorem State.setBlk_width (s : State) (b : Block) : (s.setBlk b).width = s.width := rfl
@[simp] theorem State.setBlk_height (s : State) (b : Block) : (s.setBlk b).height = s.height := rfl
@[simp] theorem State.setBlk_order (s : State) (b : Block) : (s.setBlk b).order = s.order := rfl
@[simp] theorem State.setBlk_scanBx (s : State) (b : Block) : (s.setBlk b).scanBx = s.scanBx := rfl
@[simp] theorem State.setBlk_scanBy (s : State) (b : Block) : (s.setBlk b).scanBy = s.scanBy := rfl
@[simp] theorem State.setBlk_scanX (s : State) (b : Block) : (s.setBlk b).scanX = s.scanX := rfl
@[simp] theorem State.setBlk_scanY (s : State) (b : Block) : (s.setBlk b).scanY = s.scanY := rfl
@[simp] theorem State.setBlk_eom (s : State) (b : Block) : (s.setBlk b).eom = s.eom := rfl
@[simp] theorem State.setBlk_enc (s : State) (b : Block) : (s.setBlk b).enc = s.enc := rfl
@[simp] theorem State.setBlk_chg (s : State) (b : Block) : (s.setBlk b).chg = s.chg := rfl
@[simp] theorem State.setBlk_err (s : State) (b : Block) : (s.setBlk b).err = s.err := rfl
@[simp] theorem State.setBlk_result (s : State) (b : Block) : (s.setBlk b).result = s.result := rfl
@[simp] theorem State.setBlk_seqNo (s : State) (b : Block) : (s.setBlk b).seqNo = s.seqNo := rfl
@[simp] theorem State.setBlk_pending (s : State) (b : Block) : (s.setBlk b).pending = s.pending := rfl
@[simp] theorem State.setBlk_responses (s : State) (b : Block) : (s.setBlk b).responses = s.responses := rfl
@[simp] theorem State.setBlk_epoch (s : State) (b : Block) : (s.setBlk b).epoch = s.epoch := rfl
@[simp] theorem State.setBlk_params (s : State) (b : Block) : (s.setBlk b).params = s.params := rfl
@[simp] theorem State.setBlk_num (s : State) (b : Block) : (s.setBlk b).num = s.num := rfl
@[simp] theorem State.setBlk_orderMax (s : State) (b : Block) : (s.setBlk b).orderMax = s.orderMax := rfl
@[simp] theorem State.setBlk_planeWords (s : State) (b : Block) : (s.setBlk b).planeWords = s.planeWords := rfl
@[simp] theorem State.setBlk_bitCap (s : State) (b : Block) : (s.setBlk b).bitCap = s.bitCap := rfl
@[simp] theorem State.setBlk_widths (s : State) (b : Block) : (s.setBlk b).widths = s.widths := rfl
@[simp] theorem State.setBlk_planeAt (s : State) (b : Block) (a' : Nat) : (s.setBlk b).planeAt a' = s.planeAt a' := rfl
@[simp] theorem State.setBlk_seq (s : State) (b : Block) (q : SeqId) : (s.setBlk b).seq q = s.seq q := by cases q <;> rfl

/-! `State.setDims` -/

/-- What a register of `DIM_BITS` bits holds: the operand itself where it fits its field. -/
theorem State.dimReg_toNat (s : State) (x : Nat) : (s.dimReg x).toNat = x % 2 ^ s.widths.dimBits.val := by
  have hlt : x % 2 ^ s.widths.dimBits.val < 2 ^ s.widths.dimBits.val := Nat.mod_lt _ (Nat.two_pow_pos _)
  have hle : 2 ^ s.widths.dimBits.val ≤ 2 ^ 16 := Nat.pow_le_pow_right (by decide) (Nat.le_of_lt_succ s.widths.dimBits.isLt)
  rw [State.dimReg, BitVec.toNat_ofNat]
  exact Nat.mod_eq_of_lt (by omega)

@[simp] theorem State.setDims_blk (s : State) (w h : Nat) : (s.setDims w h).blk = s.blk := rfl
@[simp] theorem State.setDims_plane (s : State) (w h : Nat) : (s.setDims w h).plane = s.plane := rfl
@[simp] theorem State.setDims_seq0 (s : State) (w h : Nat) : (s.setDims w h).seq0 = s.seq0 := rfl
@[simp] theorem State.setDims_seq1 (s : State) (w h : Nat) : (s.setDims w h).seq1 = s.seq1 := rfl
@[simp] theorem State.setDims_width (s : State) (w h : Nat) : (s.setDims w h).width = s.dimReg w := rfl
@[simp] theorem State.setDims_height (s : State) (w h : Nat) : (s.setDims w h).height = s.dimReg h := rfl
@[simp] theorem State.setDims_order (s : State) (w h : Nat) : (s.setDims w h).order = s.order := rfl
@[simp] theorem State.setDims_scanBx (s : State) (w h : Nat) : (s.setDims w h).scanBx = s.scanBx := rfl
@[simp] theorem State.setDims_scanBy (s : State) (w h : Nat) : (s.setDims w h).scanBy = s.scanBy := rfl
@[simp] theorem State.setDims_scanX (s : State) (w h : Nat) : (s.setDims w h).scanX = s.scanX := rfl
@[simp] theorem State.setDims_scanY (s : State) (w h : Nat) : (s.setDims w h).scanY = s.scanY := rfl
@[simp] theorem State.setDims_eom (s : State) (w h : Nat) : (s.setDims w h).eom = s.eom := rfl
@[simp] theorem State.setDims_enc (s : State) (w h : Nat) : (s.setDims w h).enc = s.enc := rfl
@[simp] theorem State.setDims_chg (s : State) (w h : Nat) : (s.setDims w h).chg = s.chg := rfl
@[simp] theorem State.setDims_err (s : State) (w h : Nat) : (s.setDims w h).err = s.err := rfl
@[simp] theorem State.setDims_result (s : State) (w h : Nat) : (s.setDims w h).result = s.result := rfl
@[simp] theorem State.setDims_seqNo (s : State) (w h : Nat) : (s.setDims w h).seqNo = s.seqNo := rfl
@[simp] theorem State.setDims_pending (s : State) (w h : Nat) : (s.setDims w h).pending = s.pending := rfl
@[simp] theorem State.setDims_responses (s : State) (w h : Nat) : (s.setDims w h).responses = s.responses := rfl
@[simp] theorem State.setDims_epoch (s : State) (w h : Nat) : (s.setDims w h).epoch = s.epoch := rfl
@[simp] theorem State.setDims_params (s : State) (w h : Nat) : (s.setDims w h).params = s.params := rfl
@[simp] theorem State.setDims_num (s : State) (w h : Nat) : (s.setDims w h).num = s.num := rfl
@[simp] theorem State.setDims_orderMax (s : State) (w h : Nat) : (s.setDims w h).orderMax = s.orderMax := rfl
@[simp] theorem State.setDims_planeWords (s : State) (w h : Nat) : (s.setDims w h).planeWords = s.planeWords := rfl
@[simp] theorem State.setDims_bitCap (s : State) (w h : Nat) : (s.setDims w h).bitCap = s.bitCap := rfl
@[simp] theorem State.setDims_widths (s : State) (w h : Nat) : (s.setDims w h).widths = s.widths := rfl
@[simp] theorem State.setDims_planeAt (s : State) (w h : Nat) (a' : Nat) : (s.setDims w h).planeAt a' = s.planeAt a' := rfl
@[simp] theorem State.setDims_seq (s : State) (w h : Nat) (q : SeqId) : (s.setDims w h).seq q = s.seq q := by cases q <;> rfl

/-! `State.setOrder` -/

@[simp] theorem State.setOrder_blk (s : State) (o : Nat) : (s.setOrder o).blk = s.blk := rfl
@[simp] theorem State.setOrder_plane (s : State) (o : Nat) : (s.setOrder o).plane = s.plane := rfl
@[simp] theorem State.setOrder_seq0 (s : State) (o : Nat) : (s.setOrder o).seq0 = s.seq0 := rfl
@[simp] theorem State.setOrder_seq1 (s : State) (o : Nat) : (s.setOrder o).seq1 = s.seq1 := rfl
@[simp] theorem State.setOrder_width (s : State) (o : Nat) : (s.setOrder o).width = s.width := rfl
@[simp] theorem State.setOrder_height (s : State) (o : Nat) : (s.setOrder o).height = s.height := rfl
@[simp] theorem State.setOrder_order (s : State) (o : Nat) : (s.setOrder o).order = BitVec.ofNat 3 o := rfl
@[simp] theorem State.setOrder_scanBx (s : State) (o : Nat) : (s.setOrder o).scanBx = s.scanBx := rfl
@[simp] theorem State.setOrder_scanBy (s : State) (o : Nat) : (s.setOrder o).scanBy = s.scanBy := rfl
@[simp] theorem State.setOrder_scanX (s : State) (o : Nat) : (s.setOrder o).scanX = s.scanX := rfl
@[simp] theorem State.setOrder_scanY (s : State) (o : Nat) : (s.setOrder o).scanY = s.scanY := rfl
@[simp] theorem State.setOrder_eom (s : State) (o : Nat) : (s.setOrder o).eom = s.eom := rfl
@[simp] theorem State.setOrder_enc (s : State) (o : Nat) : (s.setOrder o).enc = s.enc := rfl
@[simp] theorem State.setOrder_chg (s : State) (o : Nat) : (s.setOrder o).chg = s.chg := rfl
@[simp] theorem State.setOrder_err (s : State) (o : Nat) : (s.setOrder o).err = s.err := rfl
@[simp] theorem State.setOrder_result (s : State) (o : Nat) : (s.setOrder o).result = s.result := rfl
@[simp] theorem State.setOrder_seqNo (s : State) (o : Nat) : (s.setOrder o).seqNo = s.seqNo := rfl
@[simp] theorem State.setOrder_pending (s : State) (o : Nat) : (s.setOrder o).pending = s.pending := rfl
@[simp] theorem State.setOrder_responses (s : State) (o : Nat) : (s.setOrder o).responses = s.responses := rfl
@[simp] theorem State.setOrder_epoch (s : State) (o : Nat) : (s.setOrder o).epoch = s.epoch := rfl
@[simp] theorem State.setOrder_params (s : State) (o : Nat) : (s.setOrder o).params = s.params := rfl
@[simp] theorem State.setOrder_num (s : State) (o : Nat) : (s.setOrder o).num = s.num := rfl
@[simp] theorem State.setOrder_orderMax (s : State) (o : Nat) : (s.setOrder o).orderMax = s.orderMax := rfl
@[simp] theorem State.setOrder_planeWords (s : State) (o : Nat) : (s.setOrder o).planeWords = s.planeWords := rfl
@[simp] theorem State.setOrder_bitCap (s : State) (o : Nat) : (s.setOrder o).bitCap = s.bitCap := rfl
@[simp] theorem State.setOrder_widths (s : State) (o : Nat) : (s.setOrder o).widths = s.widths := rfl
@[simp] theorem State.setOrder_planeAt (s : State) (o : Nat) (a' : Nat) : (s.setOrder o).planeAt a' = s.planeAt a' := rfl
@[simp] theorem State.setOrder_seq (s : State) (o : Nat) (q : SeqId) : (s.setOrder o).seq q = s.seq q := by cases q <;> rfl

/-! `State.rewind` -/

@[simp] theorem State.rewind_blk (s : State) : (s.rewind).blk = s.blk := rfl
@[simp] theorem State.rewind_plane (s : State) : (s.rewind).plane = s.plane := rfl
@[simp] theorem State.rewind_seq0 (s : State) : (s.rewind).seq0 = s.seq0 := rfl
@[simp] theorem State.rewind_seq1 (s : State) : (s.rewind).seq1 = s.seq1 := rfl
@[simp] theorem State.rewind_width (s : State) : (s.rewind).width = s.width := rfl
@[simp] theorem State.rewind_height (s : State) : (s.rewind).height = s.height := rfl
@[simp] theorem State.rewind_order (s : State) : (s.rewind).order = s.order := rfl
@[simp] theorem State.rewind_scanBx (s : State) : (s.rewind).scanBx = 0 := rfl
@[simp] theorem State.rewind_scanBy (s : State) : (s.rewind).scanBy = 0 := rfl
@[simp] theorem State.rewind_scanX (s : State) : (s.rewind).scanX = 0 := rfl
@[simp] theorem State.rewind_scanY (s : State) : (s.rewind).scanY = 0 := rfl
@[simp] theorem State.rewind_eom (s : State) : (s.rewind).eom = false := rfl
@[simp] theorem State.rewind_enc (s : State) : (s.rewind).enc = 0 := rfl
@[simp] theorem State.rewind_chg (s : State) : (s.rewind).chg = 0 := rfl
@[simp] theorem State.rewind_err (s : State) : (s.rewind).err = s.err := rfl
@[simp] theorem State.rewind_result (s : State) : (s.rewind).result = s.result := rfl
@[simp] theorem State.rewind_seqNo (s : State) : (s.rewind).seqNo = s.seqNo := rfl
@[simp] theorem State.rewind_pending (s : State) : (s.rewind).pending = s.pending := rfl
@[simp] theorem State.rewind_responses (s : State) : (s.rewind).responses = s.responses := rfl
@[simp] theorem State.rewind_epoch (s : State) : (s.rewind).epoch = s.epoch := rfl
@[simp] theorem State.rewind_params (s : State) : (s.rewind).params = s.params := rfl
@[simp] theorem State.rewind_num (s : State) : (s.rewind).num = s.num := rfl
@[simp] theorem State.rewind_orderMax (s : State) : (s.rewind).orderMax = s.orderMax := rfl
@[simp] theorem State.rewind_planeWords (s : State) : (s.rewind).planeWords = s.planeWords := rfl
@[simp] theorem State.rewind_bitCap (s : State) : (s.rewind).bitCap = s.bitCap := rfl
@[simp] theorem State.rewind_widths (s : State) : (s.rewind).widths = s.widths := rfl
@[simp] theorem State.rewind_planeAt (s : State) (a' : Nat) : (s.rewind).planeAt a' = s.planeAt a' := rfl
@[simp] theorem State.rewind_seq (s : State) (q : SeqId) : (s.rewind).seq q = s.seq q := by cases q <;> rfl

/-! `State.setCursor` -/

@[simp] theorem State.setCursor_blk (s : State) (bx by' : Nat) (x : BitVec 3) : (s.setCursor bx by' x).blk = s.blk := rfl
@[simp] theorem State.setCursor_plane (s : State) (bx by' : Nat) (x : BitVec 3) : (s.setCursor bx by' x).plane = s.plane := rfl
@[simp] theorem State.setCursor_seq0 (s : State) (bx by' : Nat) (x : BitVec 3) : (s.setCursor bx by' x).seq0 = s.seq0 := rfl
@[simp] theorem State.setCursor_seq1 (s : State) (bx by' : Nat) (x : BitVec 3) : (s.setCursor bx by' x).seq1 = s.seq1 := rfl
@[simp] theorem State.setCursor_width (s : State) (bx by' : Nat) (x : BitVec 3) : (s.setCursor bx by' x).width = s.width := rfl
@[simp] theorem State.setCursor_height (s : State) (bx by' : Nat) (x : BitVec 3) : (s.setCursor bx by' x).height = s.height := rfl
@[simp] theorem State.setCursor_order (s : State) (bx by' : Nat) (x : BitVec 3) : (s.setCursor bx by' x).order = s.order := rfl
@[simp] theorem State.setCursor_scanBx (s : State) (bx by' : Nat) (x : BitVec 3) : (s.setCursor bx by' x).scanBx = BitVec.ofNat 16 bx := rfl
@[simp] theorem State.setCursor_scanBy (s : State) (bx by' : Nat) (x : BitVec 3) : (s.setCursor bx by' x).scanBy = BitVec.ofNat 16 by' := rfl
@[simp] theorem State.setCursor_scanX (s : State) (bx by' : Nat) (x : BitVec 3) : (s.setCursor bx by' x).scanX = x := rfl
@[simp] theorem State.setCursor_scanY (s : State) (bx by' : Nat) (x : BitVec 3) : (s.setCursor bx by' x).scanY = 0 := rfl
@[simp] theorem State.setCursor_eom (s : State) (bx by' : Nat) (x : BitVec 3) : (s.setCursor bx by' x).eom = s.eom := rfl
@[simp] theorem State.setCursor_enc (s : State) (bx by' : Nat) (x : BitVec 3) : (s.setCursor bx by' x).enc = s.enc := rfl
@[simp] theorem State.setCursor_chg (s : State) (bx by' : Nat) (x : BitVec 3) : (s.setCursor bx by' x).chg = s.chg := rfl
@[simp] theorem State.setCursor_err (s : State) (bx by' : Nat) (x : BitVec 3) : (s.setCursor bx by' x).err = s.err := rfl
@[simp] theorem State.setCursor_result (s : State) (bx by' : Nat) (x : BitVec 3) : (s.setCursor bx by' x).result = s.result := rfl
@[simp] theorem State.setCursor_seqNo (s : State) (bx by' : Nat) (x : BitVec 3) : (s.setCursor bx by' x).seqNo = s.seqNo := rfl
@[simp] theorem State.setCursor_pending (s : State) (bx by' : Nat) (x : BitVec 3) : (s.setCursor bx by' x).pending = s.pending := rfl
@[simp] theorem State.setCursor_responses (s : State) (bx by' : Nat) (x : BitVec 3) : (s.setCursor bx by' x).responses = s.responses := rfl
@[simp] theorem State.setCursor_epoch (s : State) (bx by' : Nat) (x : BitVec 3) : (s.setCursor bx by' x).epoch = s.epoch := rfl
@[simp] theorem State.setCursor_params (s : State) (bx by' : Nat) (x : BitVec 3) : (s.setCursor bx by' x).params = s.params := rfl
@[simp] theorem State.setCursor_num (s : State) (bx by' : Nat) (x : BitVec 3) : (s.setCursor bx by' x).num = s.num := rfl
@[simp] theorem State.setCursor_orderMax (s : State) (bx by' : Nat) (x : BitVec 3) : (s.setCursor bx by' x).orderMax = s.orderMax := rfl
@[simp] theorem State.setCursor_planeWords (s : State) (bx by' : Nat) (x : BitVec 3) : (s.setCursor bx by' x).planeWords = s.planeWords := rfl
@[simp] theorem State.setCursor_bitCap (s : State) (bx by' : Nat) (x : BitVec 3) : (s.setCursor bx by' x).bitCap = s.bitCap := rfl
@[simp] theorem State.setCursor_widths (s : State) (bx by' : Nat) (x : BitVec 3) : (s.setCursor bx by' x).widths = s.widths := rfl
@[simp] theorem State.setCursor_planeAt (s : State) (bx by' : Nat) (x : BitVec 3) (a' : Nat) : (s.setCursor bx by' x).planeAt a' = s.planeAt a' := rfl
@[simp] theorem State.setCursor_seq (s : State) (bx by' : Nat) (x : BitVec 3) (q : SeqId) : (s.setCursor bx by' x).seq q = s.seq q := by cases q <;> rfl

/-! `State.countBit` -/

@[simp] theorem State.countBit_blk (s : State) (f : Bool) : (s.countBit f).blk = s.blk := rfl
@[simp] theorem State.countBit_plane (s : State) (f : Bool) : (s.countBit f).plane = s.plane := rfl
@[simp] theorem State.countBit_seq0 (s : State) (f : Bool) : (s.countBit f).seq0 = s.seq0 := rfl
@[simp] theorem State.countBit_seq1 (s : State) (f : Bool) : (s.countBit f).seq1 = s.seq1 := rfl
@[simp] theorem State.countBit_width (s : State) (f : Bool) : (s.countBit f).width = s.width := rfl
@[simp] theorem State.countBit_height (s : State) (f : Bool) : (s.countBit f).height = s.height := rfl
@[simp] theorem State.countBit_order (s : State) (f : Bool) : (s.countBit f).order = s.order := rfl
@[simp] theorem State.countBit_scanBx (s : State) (f : Bool) : (s.countBit f).scanBx = s.scanBx := rfl
@[simp] theorem State.countBit_scanBy (s : State) (f : Bool) : (s.countBit f).scanBy = s.scanBy := rfl
@[simp] theorem State.countBit_scanX (s : State) (f : Bool) : (s.countBit f).scanX = s.scanX := rfl
@[simp] theorem State.countBit_scanY (s : State) (f : Bool) : (s.countBit f).scanY = s.scanY := rfl
@[simp] theorem State.countBit_eom (s : State) (f : Bool) : (s.countBit f).eom = s.eom := rfl
@[simp] theorem State.countBit_enc (s : State) (f : Bool) : (s.countBit f).enc = s.enc + 1 := rfl
@[simp] theorem State.countBit_chg (s : State) (f : Bool) : (s.countBit f).chg = if f then s.chg + 1 else s.chg := rfl
@[simp] theorem State.countBit_err (s : State) (f : Bool) : (s.countBit f).err = s.err := rfl
@[simp] theorem State.countBit_result (s : State) (f : Bool) : (s.countBit f).result = s.result := rfl
@[simp] theorem State.countBit_seqNo (s : State) (f : Bool) : (s.countBit f).seqNo = s.seqNo := rfl
@[simp] theorem State.countBit_pending (s : State) (f : Bool) : (s.countBit f).pending = s.pending := rfl
@[simp] theorem State.countBit_responses (s : State) (f : Bool) : (s.countBit f).responses = s.responses := rfl
@[simp] theorem State.countBit_epoch (s : State) (f : Bool) : (s.countBit f).epoch = s.epoch := rfl
@[simp] theorem State.countBit_params (s : State) (f : Bool) : (s.countBit f).params = s.params := rfl
@[simp] theorem State.countBit_num (s : State) (f : Bool) : (s.countBit f).num = s.num := rfl
@[simp] theorem State.countBit_orderMax (s : State) (f : Bool) : (s.countBit f).orderMax = s.orderMax := rfl
@[simp] theorem State.countBit_planeWords (s : State) (f : Bool) : (s.countBit f).planeWords = s.planeWords := rfl
@[simp] theorem State.countBit_bitCap (s : State) (f : Bool) : (s.countBit f).bitCap = s.bitCap := rfl
@[simp] theorem State.countBit_widths (s : State) (f : Bool) : (s.countBit f).widths = s.widths := rfl
@[simp] theorem State.countBit_planeAt (s : State) (f : Bool) (a' : Nat) : (s.countBit f).planeAt a' = s.planeAt a' := rfl
@[simp] theorem State.countBit_seq (s : State) (f : Bool) (q : SeqId) : (s.countBit f).seq q = s.seq q := by cases q <;> rfl

/-! `State.setEom` -/

@[simp] theorem State.setEom_blk (s : State) : (s.setEom).blk = s.blk := rfl
@[simp] theorem State.setEom_plane (s : State) : (s.setEom).plane = s.plane := rfl
@[simp] theorem State.setEom_seq0 (s : State) : (s.setEom).seq0 = s.seq0 := rfl
@[simp] theorem State.setEom_seq1 (s : State) : (s.setEom).seq1 = s.seq1 := rfl
@[simp] theorem State.setEom_width (s : State) : (s.setEom).width = s.width := rfl
@[simp] theorem State.setEom_height (s : State) : (s.setEom).height = s.height := rfl
@[simp] theorem State.setEom_order (s : State) : (s.setEom).order = s.order := rfl
@[simp] theorem State.setEom_scanBx (s : State) : (s.setEom).scanBx = s.scanBx := rfl
@[simp] theorem State.setEom_scanBy (s : State) : (s.setEom).scanBy = s.scanBy := rfl
@[simp] theorem State.setEom_scanX (s : State) : (s.setEom).scanX = s.scanX := rfl
@[simp] theorem State.setEom_scanY (s : State) : (s.setEom).scanY = s.scanY := rfl
@[simp] theorem State.setEom_eom (s : State) : (s.setEom).eom = true := rfl
@[simp] theorem State.setEom_enc (s : State) : (s.setEom).enc = s.enc := rfl
@[simp] theorem State.setEom_chg (s : State) : (s.setEom).chg = s.chg := rfl
@[simp] theorem State.setEom_err (s : State) : (s.setEom).err = s.err := rfl
@[simp] theorem State.setEom_result (s : State) : (s.setEom).result = s.result := rfl
@[simp] theorem State.setEom_seqNo (s : State) : (s.setEom).seqNo = s.seqNo := rfl
@[simp] theorem State.setEom_pending (s : State) : (s.setEom).pending = s.pending := rfl
@[simp] theorem State.setEom_responses (s : State) : (s.setEom).responses = s.responses := rfl
@[simp] theorem State.setEom_epoch (s : State) : (s.setEom).epoch = s.epoch := rfl
@[simp] theorem State.setEom_params (s : State) : (s.setEom).params = s.params := rfl
@[simp] theorem State.setEom_num (s : State) : (s.setEom).num = s.num := rfl
@[simp] theorem State.setEom_orderMax (s : State) : (s.setEom).orderMax = s.orderMax := rfl
@[simp] theorem State.setEom_planeWords (s : State) : (s.setEom).planeWords = s.planeWords := rfl
@[simp] theorem State.setEom_bitCap (s : State) : (s.setEom).bitCap = s.bitCap := rfl
@[simp] theorem State.setEom_widths (s : State) : (s.setEom).widths = s.widths := rfl
@[simp] theorem State.setEom_planeAt (s : State) (a' : Nat) : (s.setEom).planeAt a' = s.planeAt a' := rfl
@[simp] theorem State.setEom_seq (s : State) (q : SeqId) : (s.setEom).seq q = s.seq q := by cases q <;> rfl

/-! `State.setSeq` -/

@[simp] theorem State.setSeq_blk (s : State) (i : SeqId) (q : BitSeq) : (s.setSeq i q).blk = s.blk := by cases i <;> rfl
@[simp] theorem State.setSeq_plane (s : State) (i : SeqId) (q : BitSeq) : (s.setSeq i q).plane = s.plane := by cases i <;> rfl
@[simp] theorem State.setSeq_width (s : State) (i : SeqId) (q : BitSeq) : (s.setSeq i q).width = s.width := by cases i <;> rfl
@[simp] theorem State.setSeq_height (s : State) (i : SeqId) (q : BitSeq) : (s.setSeq i q).height = s.height := by cases i <;> rfl
@[simp] theorem State.setSeq_order (s : State) (i : SeqId) (q : BitSeq) : (s.setSeq i q).order = s.order := by cases i <;> rfl
@[simp] theorem State.setSeq_scanBx (s : State) (i : SeqId) (q : BitSeq) : (s.setSeq i q).scanBx = s.scanBx := by cases i <;> rfl
@[simp] theorem State.setSeq_scanBy (s : State) (i : SeqId) (q : BitSeq) : (s.setSeq i q).scanBy = s.scanBy := by cases i <;> rfl
@[simp] theorem State.setSeq_scanX (s : State) (i : SeqId) (q : BitSeq) : (s.setSeq i q).scanX = s.scanX := by cases i <;> rfl
@[simp] theorem State.setSeq_scanY (s : State) (i : SeqId) (q : BitSeq) : (s.setSeq i q).scanY = s.scanY := by cases i <;> rfl
@[simp] theorem State.setSeq_eom (s : State) (i : SeqId) (q : BitSeq) : (s.setSeq i q).eom = s.eom := by cases i <;> rfl
@[simp] theorem State.setSeq_enc (s : State) (i : SeqId) (q : BitSeq) : (s.setSeq i q).enc = s.enc := by cases i <;> rfl
@[simp] theorem State.setSeq_chg (s : State) (i : SeqId) (q : BitSeq) : (s.setSeq i q).chg = s.chg := by cases i <;> rfl
@[simp] theorem State.setSeq_err (s : State) (i : SeqId) (q : BitSeq) : (s.setSeq i q).err = s.err := by cases i <;> rfl
@[simp] theorem State.setSeq_result (s : State) (i : SeqId) (q : BitSeq) : (s.setSeq i q).result = s.result := by cases i <;> rfl
@[simp] theorem State.setSeq_seqNo (s : State) (i : SeqId) (q : BitSeq) : (s.setSeq i q).seqNo = s.seqNo := by cases i <;> rfl
@[simp] theorem State.setSeq_pending (s : State) (i : SeqId) (q : BitSeq) : (s.setSeq i q).pending = s.pending := by cases i <;> rfl
@[simp] theorem State.setSeq_responses (s : State) (i : SeqId) (q : BitSeq) : (s.setSeq i q).responses = s.responses := by cases i <;> rfl
@[simp] theorem State.setSeq_epoch (s : State) (i : SeqId) (q : BitSeq) : (s.setSeq i q).epoch = s.epoch := by cases i <;> rfl
@[simp] theorem State.setSeq_params (s : State) (i : SeqId) (q : BitSeq) : (s.setSeq i q).params = s.params := by cases i <;> rfl
@[simp] theorem State.setSeq_num (s : State) (i : SeqId) (q : BitSeq) : (s.setSeq i q).num = s.num := by cases i <;> rfl
@[simp] theorem State.setSeq_orderMax (s : State) (i : SeqId) (q : BitSeq) : (s.setSeq i q).orderMax = s.orderMax := by cases i <;> rfl
@[simp] theorem State.setSeq_planeWords (s : State) (i : SeqId) (q : BitSeq) : (s.setSeq i q).planeWords = s.planeWords := by cases i <;> rfl
@[simp] theorem State.setSeq_bitCap (s : State) (i : SeqId) (q : BitSeq) : (s.setSeq i q).bitCap = s.bitCap := by cases i <;> rfl
@[simp] theorem State.setSeq_widths (s : State) (i : SeqId) (q : BitSeq) : (s.setSeq i q).widths = s.widths := by cases i <;> rfl
@[simp] theorem State.setSeq_planeAt (s : State) (i : SeqId) (q : BitSeq) (a : Nat) :
    (s.setSeq i q).planeAt a = s.planeAt a := by cases i <;> rfl

/-- The sequence written reads as written. -/
@[simp] theorem State.seq_setSeq_same (s : State) (i : SeqId) (q : BitSeq) : (s.setSeq i q).seq i = q := by
  cases i <;> rfl

/-- The other sequence is as it was. -/
theorem State.seq_setSeq_other (s : State) {i j : SeqId} (q : BitSeq) (h : j ≠ i) : (s.setSeq i q).seq j = s.seq j := by
  cases i <;> cases j <;> first | rfl | exact absurd rfl h

/-- Writing back the sequence that is there changes nothing. -/
@[simp] theorem State.setSeq_seq (s : State) (i : SeqId) : s.setSeq i (s.seq i) = s := by cases i <;> rfl

end Sys2Proof.Machine
end

