-- ==== Sys2Proof/Laws/Block.lean ====
section
/-! SUPPORT. The block buffer: a cell of a block built from its cells. -/

namespace Sys2Proof.Machine

/-- Cell `(r, c)` of the block whose cells are `f`. -/
@[simp] theorem cell_blockOf (f : Fin 8 → Fin 8 → Word) (r c : Fin 8) : cell (blockOf f) r c = f r c := by
  have hr : (8 * r.val + c.val) / 8 = r.val := by omega
  have hc : (8 * r.val + c.val) % 8 = c.val := by omega
  simp [cell, blockOf, hr, hc]

/-- A block is its cells. -/
theorem block_ext (a b : Block) (h : ∀ r c, cell a r c = cell b r c) : a = b := by
  apply Vector.ext
  intro k hk
  have hcell := h ⟨k / 8, by omega⟩ ⟨k % 8, by omega⟩
  have hidx : 8 * (k / 8) + k % 8 = k := Nat.div_add_mod k 8
  simpa [cell, hidx] using hcell

end Sys2Proof.Machine
end

