-- ==== Sys2Proof/Laws/Encoding.lean ====
section
/-! SUPPORT. The bits of an encoded command, and the row of the opcode table it selects (30_encoding.md R76 to R78), with
the operands of any widths (00_scope.md R5). -/

namespace Sys2Proof.Laws

/-- Bit `i` of the bits `lo` to `lo + n - 1`. -/
theorem getLsbD_bitsAt (lo n i : Nat) :
    (bitsAt lo n).getLsbD i = (decide (i < 56) && (decide (lo ≤ i) && decide (i < lo + n))) := by
  simp only [bitsAt, BitVec.getLsbD_ofNat, Nat.testBit_shiftLeft, Nat.testBit_two_pow_sub_one, ge_iff_le]
  by_cases h : lo ≤ i
  · have : i - lo < n ↔ i < lo + n := by omega
    simp [h, this]
  · simp [h]

/-- Bit `i` of an integer placed at bit `lo`. -/
theorem getLsbD_placed (lo x i : Nat) :
    (placed lo x).getLsbD i = (decide (i < 64) && (decide (lo ≤ i) && x.testBit (i - lo))) := by
  simp only [placed, BitVec.getLsbD_shiftLeft, BitVec.getLsbD_ofNat]
  by_cases hi : i < 64 <;> by_cases h : lo ≤ i
  · have : i - lo < 64 := by omega
    simp [hi, this, h, Nat.not_lt.mpr h]
  · simp [hi, h, Nat.lt_of_not_le h]
  · simp [hi]
  · simp [hi]

/-- Bit `i` of a row's mask: an opcode bit, or a bit its command does not use (30_encoding.md R78). -/
theorem getLsbD_mask (row : OpRow) (i : Nat) (hi : i < 64) :
    row.mask.getLsbD i = (decide (56 ≤ i) || !row.used.getLsbD i) := by
  have hff : (0xFF00000000000000 : Word) = BitVec.ofNat 64 ((2 ^ 8 - 1) <<< 56) := by decide
  simp only [OpRow.mask, BitVec.getLsbD_or, BitVec.getLsbD_setWidth, BitVec.getLsbD_not, hff, BitVec.getLsbD_ofNat,
    Nat.testBit_shiftLeft, Nat.testBit_two_pow_sub_one, ge_iff_le]
  by_cases h : 56 ≤ i
  · have : i - 56 < 8 := by omega
    simp [hi, h, this]
  · simp [hi, h, Nat.lt_of_not_le h]

/-- Every bit of `v` that is 1 is one of `used`. -/
def Within (used : BitVec 56) (v : Word) : Prop := ∀ i, v.getLsbD i = true → used.getLsbD i = true

theorem Within.left {u u' : BitVec 56} {v : Word} (h : Within u v) : Within (u ||| u') v := by
  intro i hi
  simp [h i hi]

theorem Within.right {u u' : BitVec 56} {v : Word} (h : Within u' v) : Within (u ||| u') v := by
  intro i hi
  simp [h i hi]

/-- A field holds its operand. -/
theorem Within.field (lo n x : Nat) (hx : x < 2 ^ n) (hn : lo + n ≤ 56) : Within (bitsAt lo n) (placed lo x) := by
  intro i hi
  rw [getLsbD_placed] at hi
  simp only [Bool.and_eq_true, decide_eq_true_eq] at hi
  have hlt : i - lo < n := by
    by_contra hge
    have hle : x < 2 ^ (i - lo) := Nat.lt_of_lt_of_le hx (Nat.pow_le_pow_right (by decide) (by omega))
    rw [Nat.testBit_lt_two_pow hle] at hi
    exact absurd hi.2.2 (by decide)
  rw [getLsbD_bitsAt]
  have h1 : i < 56 := by omega
  have h2 : i < lo + n := by omega
  simp [h1, h2, hi.2.1]

/-- A field that is not there is written as zeros. -/
theorem Within.zero (u : BitVec 56) (lo : Nat) : Within u (placed lo 0) := by
  intro i hi
  simp [getLsbD_placed] at hi

/-- A one-bit field that is not there. -/
theorem Within.zeroBit (u : BitVec 56) (lo : Nat) : Within u (placedBit lo false) := Within.zero u lo

/-- A one-bit field holds its bit. -/
theorem Within.bit (lo : Nat) (b : Bool) (hn : lo + 1 ≤ 56) : Within (bitsAt lo 1) (placedBit lo b) :=
  Within.field lo 1 b.toNat (by cases b <;> decide) hn

/-- The field that names a sequence the block has. -/
theorem Within.seq {w : Widths} {q : SeqId} (h : w.hasSeq q = true) (lo : Nat) (hn : lo + 1 ≤ 56) :
    Within (w.seqBitsAt lo) (placedBit lo q.toBit) := by
  refine Within.field lo w.seqBits q.toBit.toNat ?_ ?_ <;>
    (cases q <;> cases hw : w.nbuf <;> simp_all [Widths.hasSeq, Widths.seqCount, Widths.seqBits, SeqId.number, SeqId.toBit] <;>
      omega)

/-- A word selects a row: `(c AND mask) = match` (30_encoding.md R78). -/
def Selects (row : OpRow) (c : Word) : Prop := c &&& row.mask = row.pattern

/-- The opcode alone selects its row. -/
theorem Selects.op (row : OpRow) : Selects row (placed 56 row.op) := by
  unfold Selects OpRow.pattern
  ext i hi
  rw [← BitVec.getLsbD_eq_getElem hi, ← BitVec.getLsbD_eq_getElem hi, BitVec.getLsbD_and, getLsbD_mask row i hi,
    getLsbD_placed]
  by_cases h : 56 ≤ i <;> simp [h]

/-- A field within the row's used bits changes no selection. -/
theorem Selects.or {row : OpRow} {c v : Word} (h : Selects row c) (hv : Within row.used v) : Selects row (c ||| v) := by
  have hzero : v &&& row.mask = 0 := by
    ext i hi
    rw [← BitVec.getLsbD_eq_getElem hi, BitVec.getLsbD_and, getLsbD_mask row i hi]
    by_cases hb : v.getLsbD i = true
    · have hu := hv i hb
      have hlt : ¬56 ≤ i := Nat.not_le.mpr (BitVec.lt_of_getLsbD hu)
      simp [hu, hlt]
    · simp [Bool.eq_false_iff.mpr hb]
  have hsplit : (c ||| v) &&& row.mask = (c &&& row.mask) ||| (v &&& row.mask) := by
    ext i hi
    simp [Bool.and_or_distrib_right]
  unfold Selects
  rw [hsplit, hzero, h]
  simp

/-- A format of opcode `op` with its operands within the used bits selects its row. -/
theorem formatD_selects {row : OpRow} {b a : Nat} (hb : Within row.used (placed 16 b)) (ha : Within row.used (placed 0 a)) :
    Selects row (formatD row.op b a) := ((Selects.op row).or hb).or ha

theorem formatB_selects {row : OpRow} {d s bit : Bool} {j i : Nat} (hd : Within row.used (placedBit 50 d))
    (hs : Within row.used (placedBit 49 s)) (hbit : Within row.used (placedBit 48 bit))
    (hj : Within row.used (placed 24 j)) (hi : Within row.used (placed 0 i)) :
    Selects row (formatB row.op d s bit j i) :=
  (((((Selects.op row).or hd).or hs).or hbit).or hj).or hi

theorem formatV_selects {row : OpRow} {s : Bool} {aux v : Nat} (hs : Within row.used (placedBit 49 s))
    (ha : Within row.used (placed 32 aux)) (hv : Within row.used (placed 0 v)) :
    Selects row (formatV row.op s aux v) := (((Selects.op row).or hs).or ha).or hv

/-- The widest operands stay inside their formats (30_encoding.md R76). -/
theorem dimBits_le (w : Widths) : w.dimBits.val ≤ 16 := Nat.le_of_lt_succ w.dimBits.isLt
theorem idxBits_le (w : Widths) : w.idxBits.val ≤ 24 := Nat.le_of_lt_succ w.idxBits.isLt
theorem capBits_le (w : Widths) : w.capBits.val ≤ 32 := Nat.le_of_lt_succ w.capBits.isLt

/-- The two operands of format D. -/
theorem pair_selects {row : OpRow} {w : Widths} {x y : Nat} (hrow : row.used = w.pairBits)
    (hx : x < 2 ^ w.dimBits.val) (hy : y < 2 ^ w.dimBits.val) : Selects row (formatD row.op y x) := by
  have h := dimBits_le w
  refine formatD_selects ?_ ?_ <;> rw [hrow]
  · exact (Within.field 16 _ y hy (by omega)).right
  · exact (Within.field 0 _ x hx (by omega)).left

/-- The two operands of a bit range. -/
theorem range_selects {row : OpRow} {w : Widths} {q : SeqId} {lo hi : Nat} (hrow : row.used = w.seqBitsAt 49 ||| w.rangeBits)
    (hq : w.hasSeq q = true) (hlo : lo < 2 ^ w.idxBits.val) (hhi : hi < 2 ^ w.idxBits.val) :
    Selects row (formatB row.op false q.toBit false hi lo) := by
  have h := idxBits_le w
  refine formatB_selects (.zeroBit _ _) ?_ (.zeroBit _ _) ?_ ?_ <;> rw [hrow]
  · exact (Within.seq hq 49 (by decide)).left
  · exact ((Within.field 24 _ hi hhi (by omega)).right).right
  · exact ((Within.field 0 _ lo hlo (by omega)).left).right

end Sys2Proof.Laws
end

