-- ==== Sys2Proof/Laws/Invariant.lean ====
section
/-! SUPPORT. Updates the invariants of 10_state.md R34 do not speak of. -/

namespace Sys2Proof.Machine

theorem State.Inv.setPending {s : State} (h : s.Inv) (ms : List HostMove) : (s.setPending ms).Inv :=
  ⟨h.params, h.order, h.plane, h.dimBits, h.dims, h.cursor, h.intra, h.counters, h.seq0, h.seq1⟩

theorem State.Inv.respond {s : State} (h : s.Inv) (r : Response) : (s.respond r).Inv :=
  ⟨h.params, h.order, h.plane, h.dimBits, h.dims, h.cursor, h.intra, h.counters, h.seq0, h.seq1⟩

theorem State.Inv.bumpSeq {s : State} (h : s.Inv) : s.bumpSeq.Inv :=
  ⟨h.params, h.order, h.plane, h.dimBits, h.dims, h.cursor, h.intra, h.counters, h.seq0, h.seq1⟩

theorem State.Inv.ret {s : State} (h : s.Inv) (v : Word) : (s.ret v).Inv :=
  ⟨h.params, h.order, h.plane, h.dimBits, h.dims, h.cursor, h.intra, h.counters, h.seq0, h.seq1⟩

theorem State.Inv.raise {s : State} (h : s.Inv) (kind : ErrCode) (r : Word) : (s.raise kind r).Inv :=
  ⟨h.params, h.order, h.plane, h.dimBits, h.dims, h.cursor, h.intra, h.counters, h.seq0, h.seq1⟩

theorem State.Inv.setBlk {s : State} (h : s.Inv) (b : Block) : (s.setBlk b).Inv :=
  ⟨h.params, h.order, h.plane, h.dimBits, h.dims, h.cursor, h.intra, h.counters, h.seq0, h.seq1⟩

/-- 10_state.md R34(f), for the sequence a command names. -/
theorem State.Inv.seq {s : State} (h : s.Inv) (q : SeqId) : (s.seq q).Wf s.bitCap := by
  cases q
  · exact h.seq0
  · exact h.seq1

theorem State.Inv.setSeq {s : State} (h : s.Inv) (i : SeqId) {q : BitSeq} (hq : q.Wf s.bitCap) : (s.setSeq i q).Inv := by
  cases i
  · exact ⟨h.params, h.order, h.plane, h.dimBits, h.dims, h.cursor, h.intra, h.counters, hq, h.seq1⟩
  · exact ⟨h.params, h.order, h.plane, h.dimBits, h.dims, h.cursor, h.intra, h.counters, h.seq0, hq⟩

end Sys2Proof.Machine
end

