-- ==== Sys2Proof/Laws/Memory.lean ====
section
/-! SUPPORT. The laws of plane memory: a read after a write, and the canonical form. -/

namespace Sys2Proof.Machine

/-- A word written reads back. -/
@[simp] theorem Memory.find_store_same (m : Memory) (a : Nat) (w : Word) : Memory.find (Memory.store m a w) a = some w := by
  induction m with
  | nil => simp [Memory.store, Memory.find]
  | cons x rest ih =>
    obtain ⟨b, v⟩ := x
    simp only [Memory.store]
    split
    · simp [Memory.find]
    · split
      · simp [Memory.find]
      · rename_i h1 h2
        simp [Memory.find, h1, h2, ih]

/-- A write leaves every other address alone. -/
theorem Memory.find_store_other (m : Memory) {a b : Nat} (w : Word) (h : b ≠ a) :
    Memory.find (Memory.store m a w) b = Memory.find m b := by
  induction m with
  | nil =>
    simp only [Memory.store, Memory.find, if_neg h]
    split <;> rfl
  | cons x rest ih =>
    obtain ⟨c, v⟩ := x
    simp only [Memory.store]
    split
    · rename_i h1
      simp only [Memory.find, if_neg h]
      split
      · rename_i h2
        rw [if_neg (by omega), if_pos (by omega)]
      · rfl
    · split
      · rename_i h1 h2
        subst h2
        simp only [Memory.find, if_neg h]
      · simp only [Memory.find, ih]

/-- The canonical form, spelled out. -/
theorem Memory.wf_iff (words : Nat) (m : Memory) :
    Memory.wf words m = true ↔ m.Pairwise (fun x y => x.1 < y.1) ∧ ∀ x ∈ m, x.1 < words := by
  simp [Memory.wf]

/-- Every address of a written memory is the written one or was there. -/
theorem Memory.mem_store (m : Memory) (a : Nat) (w : Word) (x : Cell) (h : x ∈ Memory.store m a w) :
    x = (a, w) ∨ x ∈ m := by
  induction m with
  | nil => simpa [Memory.store] using h
  | cons y rest ih =>
    obtain ⟨b, v⟩ := y
    simp only [Memory.store] at h
    split at h
    · simpa using h
    · split at h
      · rename_i h1 h2
        subst h2
        rcases List.mem_cons.mp h with h | h
        · exact .inl h
        · exact .inr (List.mem_cons_of_mem _ h)
      · rcases List.mem_cons.mp h with h | h
        · exact .inr (by simp [h])
        · rcases ih h with h | h
          · exact .inl h
          · exact .inr (List.mem_cons_of_mem _ h)

/-- A write to an address of the plane keeps the canonical form. -/
theorem Memory.wf_store (words : Nat) (m : Memory) (a : Nat) (w : Word) (hm : Memory.wf words m = true) (ha : a < words) :
    Memory.wf words (Memory.store m a w) = true := by
  rw [Memory.wf_iff] at *
  obtain ⟨hp, hb⟩ := hm
  refine ⟨?_, fun x hx => ?_⟩
  · clear hb
    induction m with
    | nil => simp [Memory.store]
    | cons y rest ih =>
      obtain ⟨b, v⟩ := y
      have hrest := List.pairwise_cons.mp hp
      simp only [Memory.store]
      split
      · rename_i h1
        refine List.pairwise_cons.mpr ⟨fun z hz => ?_, hp⟩
        rcases List.mem_cons.mp hz with hz | hz
        · simpa [hz] using h1
        · exact Nat.lt_trans h1 (hrest.1 z hz)
      · split
        · rename_i h1 h2
          subst h2
          exact List.pairwise_cons.mpr hrest
        · rename_i h1 h2
          refine List.pairwise_cons.mpr ⟨fun z hz => ?_, ih hrest.2⟩
          rcases Memory.mem_store rest a w z hz with hz | hz
          · subst hz
            show b < a
            omega
          · exact hrest.1 z hz
  · rcases Memory.mem_store m a w x hx with hx | hx
    · simpa [hx] using ha
    · exact hb x hx

/-- `PLANE[a]` after `PLANE[a] <- w`. -/
@[simp] theorem State.planeAt_setPlaneAt_same (s : State) (a : Nat) (w : Word) : (s.setPlaneAt a w).planeAt a = w := by
  simp [State.planeAt]

/-- Every other plane word is as it was. -/
theorem State.planeAt_setPlaneAt_other (s : State) {a b : Nat} (w : Word) (h : b ≠ a) :
    (s.setPlaneAt a w).planeAt b = s.planeAt b := by
  simp [State.planeAt, Memory.find_store_other s.plane w h, State.unwrittenPlane]

end Sys2Proof.Machine
end

