-- ==== Sys2Proof/Laws/Sequence.lean ====
section
/-! SUPPORT. The counted bit sequences: what a mutation writes, and the integer of a window. -/

namespace Sys2Proof.Machine

/-- Bit `t` of the integer built from `f`. -/
theorem testBit_natOfBits (f : Nat → Bool) (n t : Nat) :
    (natOfBits f n).testBit t = (decide (t < n) && f t) := by
  have hlt : ∀ n, natOfBits f n < 2 ^ n := by
    intro n
    induction n with
    | zero => simp [natOfBits]
    | succ n ih =>
      have : (f n).toNat ≤ 1 := Bool.toNat_le _
      have := Nat.mul_le_mul_right (2 ^ n) this
      rw [natOfBits, Nat.pow_succ]
      omega
  induction n with
  | zero => simp [natOfBits]
  | succ n ih =>
    have h : natOfBits f (n + 1) = 2 ^ n * (f n).toNat + natOfBits f n := by
      rw [natOfBits, Nat.mul_comm, Nat.add_comm]
    rw [h, Nat.testBit_two_pow_mul_add _ (hlt n)]
    split
    · rename_i hlt'
      rw [ih]
      simp [hlt', Nat.lt_succ_of_lt hlt']
    · rename_i hge
      by_cases ht : t = n
      · subst ht
        cases f t <;> simp
      · have : ¬ t < n + 1 := by omega
        simp only [this, decide_false, Bool.false_and]
        obtain ⟨k, hk⟩ : ∃ k, t - n = k + 1 := ⟨t - n - 1, by omega⟩
        rw [hk]
        cases f n <;> simp [Nat.testBit_succ]

/-- The integer of `n` bits is below `2^n`. -/
theorem natOfBits_lt (f : Nat → Bool) (n : Nat) : natOfBits f n < 2 ^ n := by
  apply Nat.lt_pow_two_of_testBit
  intro i hi
  rw [testBit_natOfBits]
  simp [Nat.not_lt.mpr hi]

/-- The bits of `rangeMask lo n`. -/
theorem testBit_rangeMask (lo n i : Nat) :
    (rangeMask lo n).testBit i = (decide (lo ≤ i) && decide (i < lo + n)) := by
  simp only [rangeMask, Nat.testBit_shiftLeft, Nat.testBit_two_pow_sub_one, ge_iff_le]
  by_cases h : lo ≤ i
  · have : i - lo < n ↔ i < lo + n := by omega
    simp [h, this]
  · simp [h]

/-- What `writeBits` leaves: bit `t` of `v` at `lo + t`, every other bit as it was. -/
theorem BitSeq.get_writeBits (q : BitSeq) (lo n v i : Nat) :
    (q.writeBits lo n v).get i = if lo ≤ i ∧ i < lo + n then v.testBit (i - lo) else q.get i := by
  simp only [BitSeq.get, BitSeq.writeBits, Nat.testBit_or, Nat.testBit_xor, Nat.testBit_and, testBit_rangeMask,
    Nat.testBit_shiftLeft, Nat.testBit_mod_two_pow, ge_iff_le]
  by_cases h1 : lo ≤ i
  · by_cases h2 : i < lo + n
    · have h3 : i - lo < n := by omega
      simp [h1, h2, h3]
    · have h3 : ¬ i - lo < n := by omega
      simp [h1, h2, h3]
  · simp [h1]

/-- The length after a touch whose index a 24-bit length holds. -/
theorem BitSeq.length_touch (q : BitSeq) (hi : Nat) (h : hi + 1 < 2 ^ 24) :
    (q.touch hi).length = max q.length (hi + 1) := by
  have h1 : q.len.toNat < 2 ^ 24 := q.len.isLt
  simp only [BitSeq.touch, BitSeq.length, BitVec.toNat_ofNat]
  exact Nat.mod_eq_of_lt (by omega)

/-- A touch writes no bit. -/
@[simp] theorem BitSeq.get_touch (q : BitSeq) (hi i : Nat) : (q.touch hi).get i = q.get i := rfl

/-- EVERYTHING A MUTATION DOES to the bits (42_bit_sequence.md R150). -/
theorem BitSeq.get_put (q : BitSeq) (lo n v i : Nat) :
    (q.put lo n v).get i = if lo ≤ i ∧ i < lo + n then v.testBit (i - lo) else q.get i := by
  by_cases hn : n = 0
  · subst hn
    rw [if_neg (by omega)]
    simp [BitSeq.put]
  · simpa [BitSeq.put, hn] using BitSeq.get_writeBits q lo n v i

/-- EVERYTHING A MUTATION DOES to the length (42_bit_sequence.md R150), within what a 24-bit length holds. -/
theorem BitSeq.length_put (q : BitSeq) (lo n v : Nat) (h : lo + n < 2 ^ 24) :
    (q.put lo n v).length = if n = 0 then q.length else max q.length (lo + n) := by
  by_cases hn : n = 0
  · simp [BitSeq.put, hn]
  · have hlen : (q.writeBits lo n v).length = q.length := rfl
    have hidx : lo + n - 1 + 1 = lo + n := by omega
    simp only [BitSeq.put, if_neg hn]
    rw [BitSeq.length_touch _ _ (by omega), hlen, hidx]

/-- `BITCAP` is within what a 24-bit length holds (00_scope.md R5). -/
theorem State.bitCap_lt (s : State) : s.bitCap < 2 ^ 24 := s.params.bitCap.isLt

/-- The empty sequence: every bit 0. -/
@[simp] theorem BitSeq.get_empty (i : Nat) : BitSeq.empty.get i = false := by
  simp [BitSeq.empty, BitSeq.get]

/-- The empty sequence: length 0. -/
@[simp] theorem BitSeq.length_empty : BitSeq.empty.length = 0 := rfl

/-- The bits of a window. -/
theorem BitSeq.testBit_window (q : BitSeq) (lo n t : Nat) :
    (q.window lo n).testBit t = (decide (t < n) && q.get (lo + t)) := by
  rw [BitSeq.window, testBit_natOfBits]

end Sys2Proof.Machine
end

