-- ==== Sys2Proof/Laws/Outcome.lean ====
section
/-! SUPPORT. Everything the shared operations that end a command can do. -/

namespace Sys2Proof.Machine

/-- A plane command that answers a next state answers the one it computed, and the dimensions fit. -/
theorem State.onPlane_next {s u t : State} (h : s.onPlane u = .next t) : s.dimsFit = true ∧ t = u := by
  unfold State.onPlane at h
  split at h
  · rename_i hd
    exact ⟨hd, by cases h; rfl⟩
  · cases h

/-- A plane command runs where the dimensions fit. -/
theorem State.onPlane_of_fit {s : State} (u : State) (h : s.dimsFit = true) : s.onPlane u = .next u := by
  simp [State.onPlane, h]

/-- A scanner command that answers a next state answers the one it computed, and the cursor fits. -/
theorem State.onScan_next {s u t : State} (h : s.onScan u = .next t) :
    (s.dimsFit = true ∧ s.cursorFits = true) ∧ t = u := by
  unfold State.onScan at h
  split at h
  · rename_i hd
    exact ⟨by simpa using hd, by cases h; rfl⟩
  · cases h

/-- A scanner command runs where the dimensions and the cursor fit. -/
theorem State.onScan_of_fit {s : State} (u : State) (hd : s.dimsFit = true) (hc : s.cursorFits = true) :
    s.onScan u = .next u := by
  simp [State.onScan, hd, hc]

/-- EVERYTHING A MUTATING COMMAND CAN DO: it raises BufOverflow with no state changed, or writes its range
(42_bit_sequence.md R150; 60_exceptions.md R244). -/
theorem State.mutate_cases (s : State) (i : SeqId) (lo n v : Nat) :
    (s.bitCap < lo + n ∧ s.mutate i lo n v = s.raise .bufOverflow 0) ∨
    (lo + n ≤ s.bitCap ∧ s.mutate i lo n v = (s.setSeq i ((s.seq i).put lo n v)).ret 0) := by
  unfold State.mutate
  split
  · rename_i h
    exact .inl ⟨h, rfl⟩
  · rename_i h
    exact .inr ⟨by omega, rfl⟩

end Sys2Proof.Machine
end

