-- ==== Sys2Proof/Machine/Listing.lean ====
section
/-! DEFINITION. The textual form of a command (30_encoding.md R83). The block never sees it. -/

namespace Sys2Proof.Machine

/-- A sequence operand as it is written: its number. -/
def seqText : SeqId → String
  | .s0 => "0"
  | .s1 => "1"

/-- A `bit` operand as it is written. -/
def bitText (b : Bool) : String := if b then "1" else "0"

/-- The mnemonic and the operands of a command, in the order of 30_encoding.md R83. -/
def listingParts : Instr → String × List String
  | .cfgDim w h => ("CFG.DIM", [toString w, toString h])
  | .blkLoad x0 y0 => ("BLK.LOAD", [toString x0, toString y0])
  | .blkStore x0 y0 => ("BLK.STORE", [toString x0, toString y0])
  | .dctFwd => ("DCT.FWD", [])
  | .dctInv => ("DCT.INV", [])
  | .qnt => ("QNT", [])
  | .dqnt => ("DQNT", [])
  | .xfmFwd => ("XFM.FWD", [])
  | .xfmInv => ("XFM.INV", [])
  | .elig k order => ("ELIG", [toString k, toString order])
  | .bbNew s => ("BB.NEW", [seqText s])
  | .bbGet s i => ("BB.GET", [seqText s, toString i])
  | .bbSet s i bit => ("BB.SET", [seqText s, toString i, bitText bit])
  | .bbClr s i => ("BB.CLR", [seqText s, toString i])
  | .bbSetr s lo hi => ("BB.SETR", [seqText s, toString lo, toString hi])
  | .bbClrr s lo hi => ("BB.CLRR", [seqText s, toString lo, toString hi])
  | .bbApp s bit => ("BB.APP", [seqText s, bitText bit])
  | .bbAppall d s => ("BB.APPALL", [seqText d, seqText s])
  | .bbLen s => ("BB.LEN", [seqText s])
  | .hamEnc n => ("HAM.ENC", [toString n])
  | .hamDec w => ("HAM.DEC", [toString w])
  | .hamPutb s byte => ("HAM.PUTB", [seqText s, toString byte])
  | .hamGetb s k => ("HAM.GETB", [seqText s, toString k])
  | .scanInit order => ("SCAN.INIT", [toString order])
  | .scanAdv => ("SCAN.ADV", [])
  | .scanRdbit => ("SCAN.RDBIT", [])
  | .scanWrbit bit => ("SCAN.WRBIT", [bitText bit])
  | .scanStat => ("SCAN.STAT", [])
  | .scanWrbuf s => ("SCAN.WRBUF", [seqText s])
  | .scanRdbuf s => ("SCAN.RDBUF", [seqText s])
  | .scanCount order => ("SCAN.COUNT", [toString order])
  | .frmCap n => ("FRM.CAP", [toString n])

/-- The line of a listing: the mnemonic, a space, the operands separated by commas (30_encoding.md R83). -/
def listing (i : Instr) : String :=
  match listingParts i with
  | (name, []) => name
  | (name, operands) => name ++ " " ++ String.intercalate ", " operands

end Sys2Proof.Machine
end

