-- ==== Sys2Proof/Laws/PerInstr.lean ====
section
/-! SUPPORT. The per-instruction family MatchesTableRow: the command word of a well-formed instruction selects the row
of the opcode table that carries its mnemonic, by the row's mask and match (30_encoding.md R78), with the operands of any
widths (00_scope.md R5). -/

namespace Sys2Proof.Laws

/-- The command word of a well-formed `i` selects a row of the opcode table that carries the mnemonic of `i`. -/
def MatchesTableRow.Statement (i : Instr) : Prop :=
  ∀ w : Widths, i.wellFormed w = true →
    ∃ row ∈ opcodeTable w, row.mnemonic = (Machine.listingParts i).1 ∧ encode w i &&& row.mask = row.pattern

/-- A row named by its place in the table, for the lemmas below. -/
theorem MatchesTableRow.of_row {w : Widths} {i : Instr} (k : Nat) {row : OpRow} (hrow : (opcodeTable w)[k]? = some row)
    (hname : row.mnemonic = (Machine.listingParts i).1) (hword : Selects row (encode w i)) :
    ∃ row ∈ opcodeTable w, row.mnemonic = (Machine.listingParts i).1 ∧ encode w i &&& row.mask = row.pattern :=
  ⟨row, List.mem_of_getElem? hrow, hname, hword⟩

theorem MatchesTableRow.cfgDim (x y : Nat) : MatchesTableRow.Statement (.cfgDim x y) := by
  intro w hwf
  simp only [Instr.wellFormed, fitsField, Bool.and_eq_true, decide_eq_true_eq] at hwf
  exact MatchesTableRow.of_row 0 rfl rfl
    (pair_selects rfl hwf.1 hwf.2)

theorem MatchesTableRow.blkLoad (x0 y0 : Nat) : MatchesTableRow.Statement (.blkLoad x0 y0) := by
  intro w hwf
  simp only [Instr.wellFormed, fitsField, Bool.and_eq_true, decide_eq_true_eq] at hwf
  exact MatchesTableRow.of_row 1 rfl rfl
    (pair_selects rfl hwf.1 hwf.2)

theorem MatchesTableRow.blkStore (x0 y0 : Nat) : MatchesTableRow.Statement (.blkStore x0 y0) := by
  intro w hwf
  simp only [Instr.wellFormed, fitsField, Bool.and_eq_true, decide_eq_true_eq] at hwf
  exact MatchesTableRow.of_row 2 rfl rfl
    (pair_selects rfl hwf.1 hwf.2)

theorem MatchesTableRow.dctFwd : MatchesTableRow.Statement (.dctFwd) := by
  intro w _
  exact MatchesTableRow.of_row 3 rfl rfl
    (Selects.op _)

theorem MatchesTableRow.dctInv : MatchesTableRow.Statement (.dctInv) := by
  intro w _
  exact MatchesTableRow.of_row 4 rfl rfl
    (Selects.op _)

theorem MatchesTableRow.qnt : MatchesTableRow.Statement (.qnt) := by
  intro w _
  exact MatchesTableRow.of_row 5 rfl rfl
    (Selects.op _)

theorem MatchesTableRow.dqnt : MatchesTableRow.Statement (.dqnt) := by
  intro w _
  exact MatchesTableRow.of_row 6 rfl rfl
    (Selects.op _)

theorem MatchesTableRow.xfmFwd : MatchesTableRow.Statement (.xfmFwd) := by
  intro w _
  exact MatchesTableRow.of_row 7 rfl rfl
    (Selects.op _)

theorem MatchesTableRow.xfmInv : MatchesTableRow.Statement (.xfmInv) := by
  intro w _
  exact MatchesTableRow.of_row 8 rfl rfl
    (Selects.op _)

theorem MatchesTableRow.elig (k order : Nat) : MatchesTableRow.Statement (.elig k order) := by
  intro w hwf
  simp only [Instr.wellFormed, fitsField, Bool.and_eq_true, decide_eq_true_eq] at hwf
  exact MatchesTableRow.of_row 9 rfl rfl
    (formatV_selects (.zeroBit _ _) (Within.field 32 8 order hwf.2 (by decide)).right
    (Within.field 0 6 k hwf.1 (by decide)).left)

theorem MatchesTableRow.bbNew (s : SeqId) : MatchesTableRow.Statement (.bbNew s) := by
  intro w hwf
  simp only [Instr.wellFormed] at hwf
  exact MatchesTableRow.of_row 10 rfl rfl
    (formatB_selects (.zeroBit _ _) (Within.seq hwf 49 (by decide)) (.zeroBit _ _) (.zero _ _) (.zero _ _))

theorem MatchesTableRow.bbGet (s : SeqId) (i : Nat) : MatchesTableRow.Statement (.bbGet s i) := by
  intro w hwf
  simp only [Instr.wellFormed, fitsField, Bool.and_eq_true, decide_eq_true_eq] at hwf
  exact MatchesTableRow.of_row 11 rfl rfl
    (formatB_selects (.zeroBit _ _) (Within.seq hwf.1 49 (by decide)).left (.zeroBit _ _) (.zero _ _)
    (Within.field 0 _ i hwf.2 (by have := idxBits_le w; omega)).right)

theorem MatchesTableRow.bbSet (s : SeqId) (i : Nat) (bit : Bool) : MatchesTableRow.Statement (.bbSet s i bit) := by
  intro w hwf
  simp only [Instr.wellFormed, fitsField, Bool.and_eq_true, decide_eq_true_eq] at hwf
  exact MatchesTableRow.of_row 12 rfl rfl
    (formatB_selects (.zeroBit _ _) (Within.seq hwf.1 49 (by decide)).left.left
    (Within.bit 48 bit (by decide)).right.left (.zero _ _) (Within.field 0 _ i hwf.2 (by have := idxBits_le w; omega)).right)

theorem MatchesTableRow.bbClr (s : SeqId) (i : Nat) : MatchesTableRow.Statement (.bbClr s i) := by
  intro w hwf
  simp only [Instr.wellFormed, fitsField, Bool.and_eq_true, decide_eq_true_eq] at hwf
  exact MatchesTableRow.of_row 13 rfl rfl
    (formatB_selects (.zeroBit _ _) (Within.seq hwf.1 49 (by decide)).left (.zeroBit _ _) (.zero _ _)
    (Within.field 0 _ i hwf.2 (by have := idxBits_le w; omega)).right)

theorem MatchesTableRow.bbSetr (s : SeqId) (lo hi : Nat) : MatchesTableRow.Statement (.bbSetr s lo hi) := by
  intro w hwf
  simp only [Instr.wellFormed, fitsField, Bool.and_eq_true, decide_eq_true_eq] at hwf
  exact MatchesTableRow.of_row 14 rfl rfl
    (range_selects rfl hwf.1.1 hwf.1.2 hwf.2)

theorem MatchesTableRow.bbClrr (s : SeqId) (lo hi : Nat) : MatchesTableRow.Statement (.bbClrr s lo hi) := by
  intro w hwf
  simp only [Instr.wellFormed, fitsField, Bool.and_eq_true, decide_eq_true_eq] at hwf
  exact MatchesTableRow.of_row 15 rfl rfl
    (range_selects rfl hwf.1.1 hwf.1.2 hwf.2)

theorem MatchesTableRow.bbApp (s : SeqId) (bit : Bool) : MatchesTableRow.Statement (.bbApp s bit) := by
  intro w hwf
  simp only [Instr.wellFormed] at hwf
  exact MatchesTableRow.of_row 16 rfl rfl
    (formatB_selects (.zeroBit _ _) (Within.seq hwf 49 (by decide)).left
    (Within.bit 48 bit (by decide)).right (.zero _ _) (.zero _ _))

theorem MatchesTableRow.bbAppall (d s : SeqId) : MatchesTableRow.Statement (.bbAppall d s) := by
  intro w hwf
  simp only [Instr.wellFormed, Bool.and_eq_true] at hwf
  exact MatchesTableRow.of_row 17 rfl rfl
    (formatB_selects (Within.seq hwf.1 50 (by decide)).left
    (Within.seq hwf.2 49 (by decide)).right (.zeroBit _ _) (.zero _ _) (.zero _ _))

theorem MatchesTableRow.bbLen (s : SeqId) : MatchesTableRow.Statement (.bbLen s) := by
  intro w hwf
  simp only [Instr.wellFormed] at hwf
  exact MatchesTableRow.of_row 18 rfl rfl
    (formatB_selects (.zeroBit _ _) (Within.seq hwf 49 (by decide)) (.zeroBit _ _) (.zero _ _) (.zero _ _))

theorem MatchesTableRow.hamEnc (n : Nat) : MatchesTableRow.Statement (.hamEnc n) := by
  intro w hwf
  simp only [Instr.wellFormed, fitsField, decide_eq_true_eq] at hwf
  exact MatchesTableRow.of_row 19 rfl rfl
    (formatV_selects (.zeroBit _ _) (.zero _ _) (Within.field 0 4 n hwf (by decide)))

theorem MatchesTableRow.hamDec (x : Nat) : MatchesTableRow.Statement (.hamDec x) := by
  intro w hwf
  simp only [Instr.wellFormed, fitsField, decide_eq_true_eq] at hwf
  exact MatchesTableRow.of_row 20 rfl rfl
    (formatV_selects (.zeroBit _ _) (.zero _ _) (Within.field 0 7 x hwf (by decide)))

theorem MatchesTableRow.hamPutb (s : SeqId) (byte : Nat) : MatchesTableRow.Statement (.hamPutb s byte) := by
  intro w hwf
  simp only [Instr.wellFormed, fitsField, Bool.and_eq_true, decide_eq_true_eq] at hwf
  exact MatchesTableRow.of_row 21 rfl rfl
    (formatV_selects (Within.seq hwf.1 49 (by decide)).left (.zero _ _) (Within.field 0 8 byte hwf.2 (by decide)).right)

theorem MatchesTableRow.hamGetb (s : SeqId) (k : Nat) : MatchesTableRow.Statement (.hamGetb s k) := by
  intro w hwf
  simp only [Instr.wellFormed, fitsField, Bool.and_eq_true, decide_eq_true_eq] at hwf
  exact MatchesTableRow.of_row 22 rfl rfl
    (formatV_selects (Within.seq hwf.1 49 (by decide)).left (.zero _ _) (Within.field 0 24 k hwf.2 (by decide)).right)

theorem MatchesTableRow.scanInit (order : Nat) : MatchesTableRow.Statement (.scanInit order) := by
  intro w hwf
  simp only [Instr.wellFormed, fitsField, decide_eq_true_eq] at hwf
  exact MatchesTableRow.of_row 23 rfl rfl
    (formatV_selects (.zeroBit _ _) (Within.field 32 8 order hwf (by decide)) (.zero _ _))

theorem MatchesTableRow.scanAdv : MatchesTableRow.Statement (.scanAdv) := by
  intro w _
  exact MatchesTableRow.of_row 24 rfl rfl
    (Selects.op _)

theorem MatchesTableRow.scanRdbit : MatchesTableRow.Statement (.scanRdbit) := by
  intro w _
  exact MatchesTableRow.of_row 25 rfl rfl
    (Selects.op _)

theorem MatchesTableRow.scanWrbit (bit : Bool) : MatchesTableRow.Statement (.scanWrbit bit) := by
  intro w _
  exact MatchesTableRow.of_row 26 rfl rfl
    (formatB_selects (.zeroBit _ _) (.zeroBit _ _) (Within.bit 48 bit (by decide)) (.zero _ _) (.zero _ _))

theorem MatchesTableRow.scanStat : MatchesTableRow.Statement (.scanStat) := by
  intro w _
  exact MatchesTableRow.of_row 27 rfl rfl
    (Selects.op _)

theorem MatchesTableRow.scanWrbuf (s : SeqId) : MatchesTableRow.Statement (.scanWrbuf s) := by
  intro w hwf
  simp only [Instr.wellFormed] at hwf
  exact MatchesTableRow.of_row 28 rfl rfl
    (formatB_selects (.zeroBit _ _) (Within.seq hwf 49 (by decide)) (.zeroBit _ _) (.zero _ _) (.zero _ _))

theorem MatchesTableRow.scanRdbuf (s : SeqId) : MatchesTableRow.Statement (.scanRdbuf s) := by
  intro w hwf
  simp only [Instr.wellFormed] at hwf
  exact MatchesTableRow.of_row 29 rfl rfl
    (formatB_selects (.zeroBit _ _) (Within.seq hwf 49 (by decide)) (.zeroBit _ _) (.zero _ _) (.zero _ _))

theorem MatchesTableRow.scanCount (order : Nat) : MatchesTableRow.Statement (.scanCount order) := by
  intro w hwf
  simp only [Instr.wellFormed, fitsField, decide_eq_true_eq] at hwf
  exact MatchesTableRow.of_row 30 rfl rfl
    (formatV_selects (.zeroBit _ _) (Within.field 32 8 order hwf (by decide)) (.zero _ _))

theorem MatchesTableRow.frmCap (n : Int) : MatchesTableRow.Statement (.frmCap n) := by
  intro w _
  exact MatchesTableRow.of_row 31 rfl rfl
    (formatV_selects (.zeroBit _ _) (.zero _ _)
    (Within.field 0 _ _ (BitVec.isLt _) (by have := capBits_le w; omega)))

end Sys2Proof.Laws
end

