-- ==== Sys2Proof/Laws/Scanner.lean ====
section
/-! SUPPORT. What `advance` can do, and why its fuel is enough (log 15). -/

namespace Sys2Proof.Machine

/-- EVERYTHING `advance` CAN DO (44_scanner.md R192). -/
theorem State.advance_cases (s : State) :
    (s.eom = true ∧ s.advance = (s, none)) ∨
    (s.eom = false ∧ (s.width.toNat < 8 ∨ s.height.toNat < 8) ∧ s.advance = (s.setEom, none)) ∨
    (s.eom = false ∧ 8 ≤ s.width.toNat ∧ 8 ≤ s.height.toNat ∧
      ((∃ bx by', scanBlocks s.width.toNat s.height.toNat (s.eligibleAt s.order.toNat) s.blockCount s.dcAhead
            s.scanBx.toNat s.scanBy.toNat = .accepted bx by' ∧
          s.advance = (s.setCursor bx by' 1, some (planeAddr s.width.toNat by' bx))) ∨
       (∃ by', scanBlocks s.width.toNat s.height.toNat (s.eligibleAt s.order.toNat) s.blockCount s.dcAhead
            s.scanBx.toNat s.scanBy.toNat = .ranOut by' ∧
          s.advance = ((s.setCursor 0 by' 0).setEom, none)))) := by
  unfold State.advance
  cases heom : s.eom with
  | true => exact .inl ⟨rfl, by simp⟩
  | false =>
    by_cases hsmall : s.width.toNat < 8 ∨ s.height.toNat < 8
    · exact .inr (.inl ⟨rfl, hsmall, by simp [hsmall]⟩)
    · refine .inr (.inr ⟨rfl, by omega, by omega, ?_⟩)
      simp only [Bool.false_eq_true, if_false, if_neg hsmall]
      cases hend : scanBlocks s.width.toNat s.height.toNat (s.eligibleAt s.order.toNat) s.blockCount s.dcAhead
          s.scanBx.toNat s.scanBy.toNat with
      | accepted bx by' => exact .inl ⟨bx, by', rfl, rfl⟩
      | ranOut by' => exact .inr ⟨by', rfl, rfl⟩

/-- `advance` changes the cursor registers and EOM only (44_scanner.md R192(e), R203). -/
theorem State.advance_frame (s : State) :
    s.advance.1 = { s with scanBx := s.advance.1.scanBx, scanBy := s.advance.1.scanBy, scanX := s.advance.1.scanX,
                           scanY := s.advance.1.scanY, eom := s.advance.1.eom } := by
  rcases s.advance_cases with ⟨-, h⟩ | ⟨-, -, h⟩ | ⟨-, -, -, ⟨bx, by', -, h⟩ | ⟨by', -, h⟩⟩ <;> rw [h] <;> rfl

/-- How many blocks are left from `(bx, by')` on, that block included. -/
def blocksLeft (width height bx by' : Nat) : Nat :=
  (width - bx) / 8 + (height - by' - 8) / 8 * (width / 8)

/-- From a full block on, `blocksLeft` turns of the loop are enough: more fuel changes nothing (log 15). -/
theorem scanBlocks_fuel (width height : Nat) (eligible : Nat → Bool) :
    ∀ (fuel extra : Nat) (ahead : Bool) (bx by' : Nat), bx + 8 ≤ width → by' + 8 ≤ height →
      blocksLeft width height bx by' ≤ fuel →
      scanBlocks width height eligible (fuel + extra) ahead bx by' =
        scanBlocks width height eligible fuel ahead bx by' := by
  intro fuel
  induction fuel with
  | zero =>
    intro extra ahead bx by' hx hy hf
    exfalso
    have : 1 ≤ (width - bx) / 8 := by omega
    simp only [blocksLeft] at hf
    omega
  | succ fuel ih =>
    intro extra ahead bx by' hx hy hf
    rw [Nat.add_right_comm]
    simp only [scanBlocks]
    split
    · rfl
    · split
      · split
        · rfl
        · rename_i hw hh
          refine ih extra true 0 (by' + 8) (by omega) (by omega) ?_
          simp only [blocksLeft, Nat.sub_zero] at *
          have h1 : (height - by' - 8) / 8 = (height - (by' + 8) - 8) / 8 + 1 := by omega
          have h2 : (width - bx) / 8 = 1 := by omega
          rw [h1, Nat.add_mul] at hf
          omega
      · rename_i hw
        refine ih extra true (bx + 8) by' (by omega) hy ?_
        simp only [blocksLeft] at *
        have h1 : (width - bx) / 8 = (width - (bx + 8)) / 8 + 1 := by omega
        omega

/-- The fuel `advance` gives the loop is enough wherever the cursor stands on a full block (44_scanner.md R192(a); log 15). -/
theorem blocksLeft_le_blockCount (width height bx by' : Nat) (hx : bx + 8 ≤ width) (hy : by' + 8 ≤ height) :
    blocksLeft width height bx by' ≤ (width / 8) * (height / 8) := by
  have h1 : (width - bx) / 8 ≤ width / 8 := by omega
  have h2 : (height - by' - 8) / 8 + 1 ≤ height / 8 := by omega
  have h3 := Nat.mul_le_mul_right (width / 8) h2
  rw [Nat.add_mul] at h3
  have h4 := Nat.mul_comm (height / 8) (width / 8)
  simp only [blocksLeft]
  omega

/-- An accepted block is eligible (44_scanner.md R192(b)). -/
theorem scanBlocks_accepted (width height : Nat) (eligible : Nat → Bool) :
    ∀ (fuel : Nat) (ahead : Bool) (bx by' bx' by'' : Nat),
      scanBlocks width height eligible fuel ahead bx by' = .accepted bx' by'' →
      eligible (planeAddr width by'' bx') = true := by
  intro fuel
  induction fuel with
  | zero => intro ahead bx by' bx' by'' h; simp [scanBlocks] at h
  | succ fuel ih =>
    intro ahead bx by' bx' by'' h
    simp only [scanBlocks] at h
    split at h
    · rename_i hel
      cases h
      simp only [Bool.and_eq_true] at hel
      exact hel.2
    · split at h
      · split at h
        · cases h
        · exact ih _ _ _ _ _ h
      · exact ih _ _ _ _ _ h

/-- What an `advance` that succeeds says: the cursor stands just past an eligible DC word (44_scanner.md R192(b), (d)). -/
theorem State.advance_some {s t : State} {a : Nat} (h : s.advance = (t, some a)) :
    s.eom = false ∧ 8 ≤ s.width.toNat ∧ 8 ≤ s.height.toNat ∧ s.eligibleAt s.order.toNat a = true ∧
      ∃ bx by', a = planeAddr s.width.toNat by' bx ∧ t = s.setCursor bx by' 1 := by
  rcases s.advance_cases with ⟨-, h'⟩ | ⟨-, -, h'⟩ | ⟨heom, hw, hh, ⟨bx, by', hacc, h'⟩ | ⟨by', -, h'⟩⟩ <;> rw [h'] at h <;>
    injection h with ht ha
  · cases ha
  · cases ha
  · cases ha
    exact ⟨heom, hw, hh, scanBlocks_accepted _ _ _ _ _ _ _ _ _ hacc, bx, by', rfl, ht.symm⟩
  · cases ha

/-- EVERYTHING `writeBit` CAN DO: nothing but the end of the scan, or one word rewritten and counted (44_scanner.md R195). -/
theorem State.writeBit_cases (s : State) (bit : Bool) :
    (∃ t, s.advance = (t, none) ∧ s.writeBit bit = (t, none)) ∨
    (∃ t a, s.advance = (t, some a) ∧
      s.writeBit bit =
        ((t.setPlaneAt a (rewriteBit t.num (t.planeAt a) t.order.toNat bit)).countBit
            (carriedBit t.num (t.planeAt a) t.order.toNat != bit),
          some (carriedBit t.num (t.planeAt a) t.order.toNat != bit))) := by
  rcases h : s.advance with ⟨t, _ | a⟩
  · exact .inl ⟨t, rfl, by simp only [State.writeBit, h]⟩
  · exact .inr ⟨t, a, rfl, by simp only [State.writeBit, h]⟩

/-- `writeBit` changes the cursor, EOM, the plane and the counters only (44_scanner.md R203). -/
theorem State.writeBit_frame (s : State) (bit : Bool) :
    (s.writeBit bit).1 =
      { s with
        plane := (s.writeBit bit).1.plane, scanBx := (s.writeBit bit).1.scanBx, scanBy := (s.writeBit bit).1.scanBy
        scanX := (s.writeBit bit).1.scanX, scanY := (s.writeBit bit).1.scanY, eom := (s.writeBit bit).1.eom
        enc := (s.writeBit bit).1.enc, chg := (s.writeBit bit).1.chg } := by
  have hframe := s.advance_frame
  rcases s.writeBit_cases bit with ⟨t, hadv, hw⟩ | ⟨t, a, hadv, hw⟩ <;> rw [hadv] at hframe <;> rw [hw]
  · rw [hframe]
  · simp only at hframe ⊢
    rw [hframe]
    rfl

/-- The registers the scanner never changes (44_scanner.md R203), for a command that writes no sequence. -/
def State.SameOutsideScan (s t : State) : Prop :=
  t.blk = s.blk ∧ t.seq0 = s.seq0 ∧ t.seq1 = s.seq1 ∧ t.width = s.width ∧ t.height = s.height ∧ t.order = s.order ∧
    t.err = s.err ∧ t.result = s.result ∧ t.seqNo = s.seqNo ∧ t.pending = s.pending ∧ t.responses = s.responses ∧
    t.epoch = s.epoch ∧ t.params = s.params

theorem State.SameOutsideScan.trans {s t u : State} (h : s.SameOutsideScan t) (k : t.SameOutsideScan u) :
    s.SameOutsideScan u := by
  simp only [State.SameOutsideScan] at *
  simp_all

theorem State.writeBit_sameOutside (s : State) (bit : Bool) : s.SameOutsideScan (s.writeBit bit).1 := by
  rw [State.writeBit_frame]
  simp [State.SameOutsideScan]

/-- The loop of SCAN.WRBUF keeps what one `writeBit` keeps (44_scanner.md R197, R203). -/
theorem State.writeSeq_sameOutside (q : BitSeq) :
    ∀ (left n : Nat) (s : State), s.SameOutsideScan (State.writeSeq q left n s).1 := by
  intro left
  induction left with
  | zero => intro n s; simp [State.writeSeq, State.SameOutsideScan]
  | succ left ih =>
    intro n s
    have hone := s.writeBit_sameOutside (q.get n)
    simp only [State.writeSeq]
    rcases h : s.writeBit (q.get n) with ⟨t, _ | flipped⟩ <;> rw [h] at hone <;> simp only
    · exact hone
    · exact hone.trans (ih (n + 1) t)

end Sys2Proof.Machine
end

