-- ==== Sys2Proof/Tests/Slice0.lean ====
section
/-! SUPPORT. Own tests. Every expected value stands in spec/: the comment above a test names the place. -/

namespace Sys2Proof.Machine

set_option Elab.async false

/-! WellFormed: one ill-formed term for each check, refused (field widths of 30_encoding.md R77), and the widest that fits. -/

theorem smoke_cfgDim_w : (Instr.cfgDim 65536 8).wellFormed defaultWidths = false := by decide
theorem smoke_cfgDim_h : (Instr.cfgDim 8 65536).wellFormed defaultWidths = false := by decide
theorem smoke_blkLoad_x0 : (Instr.blkLoad 65536 0).wellFormed defaultWidths = false := by decide
theorem smoke_blkLoad_y0 : (Instr.blkLoad 0 65536).wellFormed defaultWidths = false := by decide
theorem smoke_blkStore_x0 : (Instr.blkStore 65536 0).wellFormed defaultWidths = false := by decide
theorem smoke_blkStore_y0 : (Instr.blkStore 0 65536).wellFormed defaultWidths = false := by decide
theorem smoke_elig_k : (Instr.elig 64 0).wellFormed defaultWidths = false := by decide
theorem smoke_elig_order : (Instr.elig 0 256).wellFormed defaultWidths = false := by decide
theorem smoke_bbGet_i : (Instr.bbGet .s0 16777216).wellFormed defaultWidths = false := by decide
theorem smoke_bbSet_i : (Instr.bbSet .s0 16777216 true).wellFormed defaultWidths = false := by decide
theorem smoke_bbClr_i : (Instr.bbClr .s0 16777216).wellFormed defaultWidths = false := by decide
theorem smoke_bbSetr_from : (Instr.bbSetr .s0 16777216 0).wellFormed defaultWidths = false := by decide
theorem smoke_bbSetr_to : (Instr.bbSetr .s0 0 16777216).wellFormed defaultWidths = false := by decide
theorem smoke_bbClrr_from : (Instr.bbClrr .s0 16777216 0).wellFormed defaultWidths = false := by decide
theorem smoke_bbClrr_to : (Instr.bbClrr .s0 0 16777216).wellFormed defaultWidths = false := by decide
theorem smoke_hamEnc_n : (Instr.hamEnc 16).wellFormed defaultWidths = false := by decide
theorem smoke_hamDec_w : (Instr.hamDec 128).wellFormed defaultWidths = false := by decide
theorem smoke_hamPutb_byte : (Instr.hamPutb .s0 256).wellFormed defaultWidths = false := by decide
theorem smoke_hamGetb_k : (Instr.hamGetb .s0 16777216).wellFormed defaultWidths = false := by decide
theorem smoke_scanInit_order : (Instr.scanInit 256).wellFormed defaultWidths = false := by decide
theorem smoke_scanCount_order : (Instr.scanCount 256).wellFormed defaultWidths = false := by decide
theorem smoke_frmCap_low : (Instr.frmCap (-2147483649)).wellFormed defaultWidths = false := by decide
theorem smoke_frmCap_high : (Instr.frmCap 2147483648).wellFormed defaultWidths = false := by decide

theorem smoke_widest_accepted :
    [Instr.cfgDim 65535 65535, .blkLoad 65535 65535, .blkStore 65535 65535, .elig 63 255, .bbGet .s1 16777215,
      .bbSetr .s1 16777215 16777215, .hamEnc 15, .hamDec 127, .hamPutb .s1 255, .hamGetb .s1 16777215, .scanInit 255,
      .scanCount 255, .frmCap (-2147483648), .frmCap 2147483647].all (Instr.wellFormed defaultWidths) =
        true := by decide

/-- A block with narrower operands and one sequence (00_scope.md R5, log 23): 12-bit dimensions, 10-bit indices, a 16-bit
capacity. -/
def narrow : Widths where
  dimBits := 12
  nbuf := .one
  idxBits := 10
  capBits := 16

theorem smoke_sequence :
    [Instr.bbNew .s1, .bbGet .s1 0, .bbSet .s1 0 true, .bbClr .s1 0, .bbSetr .s1 0 0, .bbClrr .s1 0 0, .bbApp .s1 true,
      .bbAppall .s1 .s0, .bbAppall .s0 .s1, .bbLen .s1, .hamPutb .s1 0, .hamGetb .s1 0, .scanWrbuf .s1, .scanRdbuf .s1].all
      (fun i => !i.wellFormed narrow) = true := by decide
theorem smoke_narrow :
    [Instr.cfgDim 4096 0, .blkLoad 0 4096, .blkStore 4096 0, .bbGet .s0 1024, .bbSetr .s0 0 1024, .frmCap 32768,
      .frmCap (-32769)].all (fun i => !i.wellFormed narrow) = true ∧
    [Instr.cfgDim 4095 4095, .bbClrr .s0 1023 1023, .bbAppall .s0 .s0, .hamGetb .s0 16777215, .frmCap (-32768)].all
      (Instr.wellFormed narrow) = true := by decide

/-! Decode: one word of every command, written out in the spec (the rule of the command, or 95_test_vectors.md). -/

theorem decode_cfgDim : decode defaultWidths 0x02000000000800A0 = .ok (.cfgDim 160 8) := by decide
theorem decode_blkLoad : decode defaultWidths 0x1000000000080010 = .ok (.blkLoad 16 8) := by decide
theorem decode_blkStore : decode defaultWidths 0x1100000000000008 = .ok (.blkStore 8 0) := by decide
theorem decode_dctFwd : decode defaultWidths 0x1200000000000000 = .ok .dctFwd := by decide
theorem decode_dctInv : decode defaultWidths 0x1300000000000000 = .ok .dctInv := by decide
theorem decode_qnt : decode defaultWidths 0x1400000000000000 = .ok .qnt := by decide
theorem decode_dqnt : decode defaultWidths 0x1500000000000000 = .ok .dqnt := by decide
theorem decode_xfmFwd : decode defaultWidths 0x1600000000000000 = .ok .xfmFwd := by decide
theorem decode_xfmInv : decode defaultWidths 0x1700000000000000 = .ok .xfmInv := by decide
theorem decode_elig : decode defaultWidths 0x200000070000003F = .ok (.elig 63 7) := by decide
theorem decode_bbNew : decode defaultWidths 0x3002000000000000 = .ok (.bbNew .s1) := by decide
theorem decode_bbGet : decode defaultWidths 0x3100000000FFFFFF = .ok (.bbGet .s0 16777215) := by decide
theorem decode_bbSet : decode defaultWidths 0x3201000000000005 = .ok (.bbSet .s0 5 true) := by decide
theorem decode_bbClr : decode defaultWidths 0x3300000000000009 = .ok (.bbClr .s0 9) := by decide
theorem decode_bbSetr : decode defaultWidths 0x3402010001000000 = .ok (.bbSetr .s1 0 65537) := by decide
theorem decode_bbClrr : decode defaultWidths 0x350000000A00000A = .ok (.bbClrr .s0 10 10) := by decide
theorem decode_bbApp : decode defaultWidths 0x3603000000000000 = .ok (.bbApp .s1 true) := by decide
theorem decode_bbAppall : decode defaultWidths 0x3704000000000000 = .ok (.bbAppall .s1 .s0) := by decide
theorem decode_bbLen : decode defaultWidths 0x3802000000000000 = .ok (.bbLen .s1) := by decide
theorem decode_hamEnc : decode defaultWidths 0x4000000000000005 = .ok (.hamEnc 5) := by decide
theorem decode_hamDec : decode defaultWidths 0x4100000000000054 = .ok (.hamDec 84) := by decide
theorem decode_hamPutb : decode defaultWidths 0x42000000000000A7 = .ok (.hamPutb .s0 167) := by decide
theorem decode_hamGetb : decode defaultWidths 0x4302000000000001 = .ok (.hamGetb .s1 1) := by decide
theorem decode_scanInit : decode defaultWidths 0x5000000900000000 = .ok (.scanInit 9) := by decide
theorem decode_scanAdv : decode defaultWidths 0x5100000000000000 = .ok .scanAdv := by decide
theorem decode_scanRdbit : decode defaultWidths 0x5200000000000000 = .ok .scanRdbit := by decide
theorem decode_scanWrbit : decode defaultWidths 0x5301000000000000 = .ok (.scanWrbit true) := by decide
theorem decode_scanStat : decode defaultWidths 0x5400000000000000 = .ok .scanStat := by decide
theorem decode_scanWrbuf : decode defaultWidths 0x5500000000000000 = .ok (.scanWrbuf .s0) := by decide
theorem decode_scanRdbuf : decode defaultWidths 0x5602000000000000 = .ok (.scanRdbuf .s1) := by decide
theorem decode_scanCount : decode defaultWidths 0x570000FF00000000 = .ok (.scanCount 255) := by decide
theorem decode_frmCap : decode defaultWidths 0x60000000FFFFFFF2 = .ok (.frmCap (-14)) := by decide

/-- 95_test_vectors.md 2.7: reserved opcodes. -/
theorem decode_refuses_reserved_opcodes :
    [0x0000000000000000, 0xFFFFFFFFFFFFFFFF, 0x0100000000000000, 0x0300000000000000, 0x1800000000000000,
      0x3900000000000000, 0x5800000000000000, 0x6100000000000000].all
      (fun c : Word => decide (decode defaultWidths c = .error (.reservedOpcode (opcodeOf c)))) = true := by decide

/-- 95_test_vectors.md 2.2, 2.4, 2.6, 2.7: a 1 in a bit the command does not use. -/
theorem decode_refuses_reserved_bits :
    [0x1200000000000001, 0x0200000100000000, 0x3004000000000000, 0x3801000000000000, 0x5302000000000000,
      0x5000000000000001, 0x3480000000000000, 0x5000000800000001, 0x2000000000000040, 0x4100000000000080,
      0x4000000000000010, 0x6000000100000000].all
      (fun c : Word => decide (decode defaultWidths c = .error (.reservedBits (opcodeOf c)))) = true := by decide

/-- 30_encoding.md R76, R81: a bit that a narrower field leaves over must be 0; FRM.CAP's operand is signed at its width. -/
theorem decode_narrow :
    decode narrow 0x0200000000080FFF = .ok (.cfgDim 4095 8) ∧ decode narrow 0x600000000000FFF2 = .ok (.frmCap (-14)) ∧
    [0x0200000000001000, 0x1000000010000000, 0x3802000000000000, 0x3704000000000000, 0x3100000000000400, 0x3400000400000000,
      0x60000000FFFFFFF2].all (fun c : Word => decide (decode narrow c = .error (.reservedBits (opcodeOf c)))) = true := by
  decide

/-! One step on a small state. The demo is the plane of program P1 after its step 7 (95_test_vectors.md): 16 by 8, DC words
6.0 and -14.000000000000002. -/

/-- The P1 plane at an order, the cursor at the first block, with two sequences. -/
def demoAt (order : BitVec 3) (q0 q1 : BitSeq) : State :=
  { State.reset with
    width := 16, height := 8, order := order, seq0 := q0, seq1 := q1
    plane := [(0, 0x4018000000000000), (8, 0xC02C000000000001)] }

/-- The bits of `v`, `n` of them addressed. -/
def bitsOf (v n : Nat) : BitSeq := { bits := v, len := BitVec.ofNat 24 n }

/-- The P1 plane at order 0; sequence 0 is `101`, sequence 1 is `1`. -/
def demo : State := demoAt 0 (bitsOf 5 3) (bitsOf 1 1)

/-- The demo with the block buffer filled with one number. -/
def demoBlk (w : Word) : State := { demo with blk := Vector.ofFn fun _ => w }

/-- The demo with one DC word and an order (95_test_vectors.md 2.5). -/
def demoDc (w : Word) (order : BitVec 3) : State := { demo with plane := [(0, w)], order := order }

/-- What one step that writes word `c` to `CMD` leaves, seen through `view`. -/
def afterWord {α : Type} (view : State → α) (s : State) (c : Nat) : Option α :=
  match step (s.withFetchWord 64 c) with
  | .next t => some (view t)
  | .fault _ => none
  | .refused _ => none

/-- ERR and RESULT. -/
def answer (s : State) : ErrCode × Word := (s.err, s.result)

/-- ERR, RESULT and one sequence as its bits and length. -/
def seqView (q : SeqId) (s : State) : ErrCode × Word × Nat × Nat := (s.err, s.result, (s.seq q).bits, (s.seq q).length)

-- 40_block_transform.md R108; 95_test_vectors.md 2.1
theorem test_cfgDim : afterWord (fun t => (t.err, t.width, t.height)) demo 0x02000000000800A0 = some (.ok, 160, 8) := by
  decide +kernel
theorem test_cfgDim_too_large :
    afterWord (fun t => (t.err, t.width, t.height)) demo 0x0200000004010400 = some (.invalidArgument, 16, 8) := by
  decide +kernel
-- 40_block_transform.md R109
theorem test_blkLoad : afterWord (fun t => cell t.blk 0 0) demo 0x1000000000000008 = some 0xC02C000000000001 := by
  decide +kernel
theorem test_blkLoad_outside : afterWord (fun t => cell t.blk 0 0) demo 0x1000000000080008 = some 0 := by decide +kernel
-- 40_block_transform.md R110
theorem test_blkStore :
    afterWord (fun t => (t.planeAt 0, t.planeAt 8)) (demoBlk 1) 0x1100000000000008 = some (0x4018000000000000, 1) := by
  decide +kernel
theorem test_blkStore_drops_outside :
    afterWord (fun t => (t.err, t.plane.length)) (demoBlk 1) 0x1100000000060008 = some (.ok, 18) := by decide +kernel
-- 40_block_transform.md R113: 576.0000000000001 over 16
theorem test_qnt : afterWord (fun t => cell t.blk 0 0) (demoBlk 0x4082000000000001) 0x1400000000000000 =
    some 0x4042000000000001 := by decide +kernel
-- 40_block_transform.md R114: 1.0 times 16
theorem test_dqnt : afterWord (fun t => cell t.blk 0 0) (demoBlk 0x3FF0000000000000) 0x1500000000000000 =
    some 0x4030000000000000 := by decide +kernel
-- 40_block_transform.md R111, R112, corner cases: all 128.0 gives +0, all +0 gives 128.0
theorem test_dctFwd_midgray : afterWord (fun t => cell t.blk 0 0) (demoBlk 0x4060000000000000) 0x1200000000000000 =
    some 0 := by decide +kernel
theorem test_dctInv_zero : afterWord (fun t => cell t.blk 7 7) (demoBlk 0) 0x1300000000000000 =
    some 0x4060000000000000 := by decide +kernel
-- 40_block_transform.md R115: all 140.0 gives 6.0
theorem test_xfmFwd_140 : afterWord (fun t => cell t.blk 0 0) (demoBlk 0x4061800000000000) 0x1600000000000000 =
    some 0x4018000000000000 := by decide +kernel
-- 40_block_transform.md R116: 1.0 in cell (0, 0) gives 130.0
theorem test_xfmInv_one :
    afterWord (fun t => cell t.blk 7 0)
      { demo with blk := Vector.ofFn fun k => if k.val = 0 then 0x3FF0000000000000 else 0 } 0x1700000000000000 =
      some 0x4060400000000000 := by decide +kernel
-- 41_order_predicate.md R142: -6.5 at orders 1 and 2
theorem test_elig : afterWord answer (demoBlk 0xC01A000000000000) 0x2000000100000000 = some (.ok, 1) := by decide +kernel
theorem test_elig_not : afterWord answer (demoBlk 0xC01A000000000000) 0x2000000200000000 = some (.ok, 0) := by
  decide +kernel
-- 42_bit_sequence.md R151 to R159; 95_test_vectors.md 2.3
theorem test_bbNew : afterWord (seqView .s1) demo 0x3002000000000000 = some (.ok, 0, 0, 0) := by decide +kernel
theorem test_bbGet : afterWord answer demo 0x3100000000000002 = some (.ok, 1) := by decide +kernel
theorem test_bbGet_beyond : afterWord answer demo 0x3100000000FFFFFF = some (.ok, 0) := by decide +kernel
theorem test_bbSet : afterWord (seqView .s0) State.reset 0x3201000000000005 = some (.ok, 0, 32, 6) := by decide +kernel
theorem test_bbSet_last : afterWord (seqView .s0) demo 0x320000000000FFFF = some (.ok, 0, 5, 65536) := by decide +kernel
theorem test_bbClr_extends : afterWord (seqView .s0) demo 0x3300000000000009 = some (.ok, 0, 5, 10) := by decide +kernel
theorem test_bbSetr : afterWord (seqView .s0) demo 0x3400000006000004 = some (.ok, 0, 53, 6) := by decide +kernel
theorem test_bbSetr_empty : afterWord (seqView .s0) demo 0x3400000004000004 = some (.ok, 0, 5, 3) := by decide +kernel
theorem test_bbClrr : afterWord (seqView .s0) demo 0x350000000C000000 = some (.ok, 0, 0, 12) := by decide +kernel
theorem test_bbClrr_order : afterWord answer demo 0x3500000003000007 = some (.invalidArgument, 0) := by decide +kernel
theorem test_bbApp : afterWord (seqView .s0) demo 0x3601000000000000 = some (.ok, 0, 13, 4) := by decide +kernel
theorem test_bbApp_full :
    afterWord answer (demoAt 0 (bitsOf 0 65536) (bitsOf 0 0)) 0x3601000000000000 = some (.bufOverflow, 0) := by
  decide +kernel
-- `110` appended to itself: `110110`
theorem test_bbAppall_self :
    afterWord (seqView .s1) (demoAt 0 (bitsOf 0 0) (bitsOf 3 3)) 0x3706000000000000 = some (.ok, 0, 27, 6) := by
  decide +kernel
theorem test_bbLen : afterWord answer demo 0x3800000000000000 = some (.ok, 3) := by decide +kernel
-- 43_hamming.md R173 to R177; 95_test_vectors.md 2.4
theorem test_hamEnc : afterWord answer demo 0x400000000000000B = some (.ok, 0x1B) := by decide +kernel
theorem test_hamDec : afterWord answer demo 0x4100000000000054 = some (.ok, 5) := by decide +kernel
theorem test_hamDec_two_flips : afterWord answer demo 0x4100000000000056 = some (.ok, 2) := by decide +kernel
theorem test_hamPutb : afterWord (seqView .s0) State.reset 0x4200000000000068 = some (.ok, 0, 0x1B78, 14) := by
  decide +kernel
theorem test_hamGetb :
    afterWord answer (demoAt 0 (bitsOf 0x1B78 14) (bitsOf 0 0)) 0x4300000000000000 = some (.ok, 0x68) := by decide +kernel
theorem test_hamGetb_incomplete :
    afterWord answer (demoAt 0 (bitsOf 0x1B78 14) (bitsOf 0 0)) 0x4300000000000001 = some (.invalidArgument, 0) := by
  decide +kernel
-- 44_scanner.md R191 to R199; 95_test_vectors.md 2.5, P1
theorem test_scanInit :
    afterWord (fun t => (t.err, t.order, t.eom)) { demo with eom := true } 0x5000000100000000 = some (.ok, 1, false) := by
  decide +kernel
theorem test_scanInit_refused :
    afterWord (fun t => (t.err, t.order, t.eom)) { demo with eom := true } 0x5000000800000000 =
      some (.invalidArgument, 0, true) := by decide +kernel
theorem test_scanAdv_second :
    afterWord (fun t => (t.err, t.result, t.scanBx, t.scanX)) { demo with scanX := 1 } 0x5100000000000000 =
      some (.ok, 8, 8, 1) := by decide +kernel
theorem test_scanAdv_end :
    afterWord (fun t => (t.err, t.eom, t.scanBx, t.scanBy)) { demo with scanBx := 8, scanX := 1 } 0x5100000000000000 =
      some (.endOfMedium, true, 0, 8) := by decide +kernel
theorem test_scanRdbit : afterWord answer (demoDc 0x401C000000000000 0) 0x5200000000000000 = some (.ok, 1) := by
  decide +kernel
theorem test_scanWrbit_one :
    afterWord (fun t => (t.planeAt 0, t.result, t.enc, t.chg)) (demoDc 0x4008000000000001 0) 0x5300000000000000 =
      some (0x4000000000000001, 1, 1, 1) := by decide +kernel
theorem test_scanWrbit_order2 :
    afterWord (fun t => (t.planeAt 0, t.result, t.enc, t.chg)) (demoDc 0xC030000000000000 2) 0x5301000000000000 =
      some (0xC034000000000000, 1, 1, 1) := by decide +kernel
theorem test_scanStat : afterWord answer { demo with enc := 14, chg := 11 } 0x5400000000000000 =
    some (.ok, 0x3FE9249249249249) := by decide +kernel
theorem test_scanStat_none : afterWord answer demo 0x5400000000000000 = some (.ok, 0) := by decide +kernel
-- two positions for three bits (60_exceptions.md R236)
theorem test_scanWrbuf_short :
    afterWord (fun t => (t.err, t.result, t.planeAt 0, t.planeAt 8)) demo 0x5500000000000000 =
      some (.endOfMedium, 2, 0x401C000000000000, 0xC02C000000000001) := by decide +kernel
theorem test_scanRdbuf : afterWord (seqView .s1) demo 0x5602000000000000 = some (.ok, 2, 1, 3) := by decide +kernel
theorem test_scanRdbuf_full :
    afterWord answer (demoAt 0 (bitsOf 0 65535) (bitsOf 0 0)) 0x5600000000000000 = some (.bufOverflow, 1) := by
  decide +kernel
theorem test_scanCount : afterWord answer { demo with eom := true } 0x5700000000000000 = some (.ok, 2) := by
  decide +kernel
theorem test_scanCount_refused : afterWord answer demo 0x570000FF00000000 = some (.invalidArgument, 0) := by
  decide +kernel
-- 45_framing.md R220; 95_test_vectors.md 2.6
theorem test_frmCap : afterWord answer demo 0x6000000000000054 = some (.ok, 2) := by decide +kernel
theorem test_frmCap_negative : afterWord answer demo 0x60000000FFFFFFF3 = some (.ok, 0xFFFFFFFFFFFFFFFC) := by
  decide +kernel
-- 60_exceptions.md R240, R245; 95_test_vectors.md 2.7
theorem test_illegal_before_operands :
    afterWord (fun t => (t.err, t.result, t.seqNo)) demo 0x5000000800000001 = some (.illegalCommand, 0, 1) := by
  decide +kernel
-- 40_block_transform.md R101: signs of zero
theorem test_zero_signs :
    fadd .binary64 0 0x8000000000000000 = 0 ∧ fadd .binary64 0x8000000000000000 0x8000000000000000 = 0x8000000000000000 ∧
    fsub .binary64 0x3FF0000000000000 0x3FF0000000000000 = 0 := by
  decide +kernel


-- 40_block_transform.md R111; 95_test_vectors.md 2.1: +inf less 128.0 is +inf, and 128.0 less +inf is -inf (log 9)
theorem test_fsub_inf :
    fsub .binary64 0x7FF0000000000000 0x4060000000000000 = 0x7FF0000000000000 ∧
    fsub .binary64 0x4060000000000000 0x7FF0000000000000 = 0xFFF0000000000000 := by decide +kernel

/-! Witnesses: the hypotheses of each statement, met together by a concrete state and operands. -/

theorem bitsOf_wf {v n : Nat} (hn : n ≤ 65536) (hv : v < 2 ^ n) : (bitsOf v n).Wf 65536 := by
  have hlen : (bitsOf v n).length = n := by
    simp only [bitsOf, BitSeq.length, BitVec.toNat_ofNat]
    omega
  refine ⟨by omega, fun i hi => ?_⟩
  have hlt : v < 2 ^ i := Nat.lt_of_lt_of_le hv (Nat.pow_le_pow_right (by decide) (by omega))
  simp [bitsOf, BitSeq.get, Nat.testBit_lt_two_pow hlt]

theorem default_legal : defaultParams.Legal := by
  unfold Params.Legal
  decide

theorem demoAt_inv (order : BitVec 3) {q0 q1 : BitSeq} (h0 : q0.Wf 65536) (h1 : q1.Wf 65536) : (demoAt order q0 q1).Inv :=
  ⟨default_legal, Nat.le_of_lt_succ order.isLt, rfl, ⟨(by decide : 16 < 2 ^ 16), (by decide : 8 < 2 ^ 16)⟩, rfl, ⟨rfl, rfl, rfl⟩, ⟨rfl, .inl rfl⟩,
    ⟨Nat.le_refl _, Nat.zero_le _⟩, h0, h1⟩

theorem zeros_wf {n : Nat} (hn : n ≤ 65536) : (bitsOf 0 n).Wf 65536 := bitsOf_wf hn (Nat.two_pow_pos n)

theorem empty_wf : (bitsOf 0 0).Wf 65536 := zeros_wf (by decide)

theorem demo_inv : demo.Inv := demoAt_inv 0 (bitsOf_wf (by decide) (by decide)) (bitsOf_wf (by decide) (by decide))

/-- The demo after a bit was written at the first position: one position is left. -/
def demoMid : State := { demo with scanX := 1, enc := 1, chg := 1 }

theorem demoMid_inv : demoMid.Inv :=
  ⟨default_legal, demo_inv.order, rfl, demo_inv.dimBits, rfl, ⟨rfl, rfl, rfl⟩, ⟨rfl, .inr rfl⟩, ⟨Nat.le_refl _, Nat.le_refl _⟩,
    demo_inv.seq0, demo_inv.seq1⟩

/-- The demo with its scan at the end of the medium. -/
def demoEnd : State := { demo with scanBy := 8, eom := true }

theorem demoEnd_inv : demoEnd.Inv :=
  ⟨default_legal, demo_inv.order, rfl, demo_inv.dimBits, rfl, ⟨rfl, rfl, rfl⟩, ⟨rfl, .inl rfl⟩, ⟨Nat.le_refl _, Nat.zero_le _⟩,
    demo_inv.seq0, demo_inv.seq1⟩

theorem demo_ahead : demo.eligibleAhead = [0, 8] := by decide +kernel
theorem demoMid_ahead : demoMid.eligibleAhead = [8] := by decide +kernel
theorem demoEnd_ahead : demoEnd.eligibleAhead = [] := by decide +kernel
theorem demo_order3_ahead : (demoAt 3 (bitsOf 5 3) (bitsOf 0 0)).eligibleAhead = [] := by decide +kernel

/-! Encoding and decoding. -/

theorem witness_DecodeEncodeRoundTrip :
    (Instr.elig 63 255).wellFormed defaultWidths = true ∧ (Instr.frmCap (-2147483648)).wellFormed defaultWidths = true := by decide
theorem witness_EncodeDecodeRoundTrip : decode defaultWidths 0x60000000FFFFFFFF = .ok (.frmCap (-1)) := by decide
theorem witness_DecodeSelectsByMaskAndMatch :
    (0x5301000000000000 : Word) &&& ((opcodeTable defaultWidths)[26]'(by decide)).mask = ((opcodeTable defaultWidths)[26]'(by decide)).pattern := by decide

/-! The step and the port. -/

theorem witness_StepRunsDecodedCommand :
    (demo.setPending [.portWrite 0 0x5301000000000000]).pending = [.portWrite 0 0x5301000000000000] ∧
    decode defaultWidths 0x5301000000000000 = .ok (.scanWrbit true) := ⟨rfl, by decide⟩
theorem witness_IllegalWord_opcode : ∀ row ∈ opcodeTable defaultWidths, row.op ≠ opcodeOf 0x6100000000000000 := by decide
theorem witness_IllegalWord_bits :
    ∃ row ∈ opcodeTable defaultWidths, row.op = opcodeOf 0x3480000000000000 ∧
      (0x3480000000000000 : Word).extractLsb' 0 56 &&& ~~~row.used ≠ 0 := by decide
theorem witness_EveryCommandCountsInSeq :
    ∃ t, step ({ demo with seqNo := 0xFFFFFFFF }.setPending [.portWrite 0 0]) = .next t ∧ t.seqNo = 0 := ⟨_, rfl, rfl⟩
/-- One address of each clause of PortWriteEffects at each end of its range, and the neighbours of the ranges. -/
theorem witness_PortWriteEffects :
    (blkIndex 0x40).isSome ∧ (blkIndex 0x7F).isSome ∧ (demo.planeIndex 0x40000000).isSome ∧ (demo.planeIndex 0x400FFFFF).isSome ∧
    [(0x3F : PortAddr), 0x80, 0x3FFFFFFF, 0x40100000, 1, 0xFFFFFFFF].all
      (fun a => (blkIndex a).isNone && (demo.planeIndex a).isNone && decide (a ≠ 0)) = true := by decide
/-- The responses at addresses of every clause of PortReadReturnsRegister, the ends of the ranges among them. -/
theorem witness_PortReadReturnsRegister :
    [(0x02 : PortAddr), 0x06, 0x0E, 0x0F, 0x10, 0x11, 0x40, 0x7F, 0x80, 0xBF, 0xC0, 0xFF, 0x100, 0x106, 0x40000000,
      0x400FFFFF].all (fun a => (demo.portValue a).isSome) = true ∧
    demo.portValue 0x00 = none ∧ demo.portValue 0x12 = none ∧ demo.portValue 0x107 = none ∧
    { demo with params := { defaultParams with widths := narrow } }.portValue 0x0E = none := by decide
theorem witness_UnmappedAddressGetsPortError :
    [(0x12 : PortAddr), 0x3F, 0x107, 0x3FFFFFFF, 0x40100000, 0xFFFFFFFF].all (fun a =>
      decide ((0x12 ≤ a.toNat ∧ a.toNat ≤ 0x3F) ∨ (0x107 ≤ a.toNat ∧ a.toNat ≤ 0x3FFFFFFF) ∨
        (0x40000000 + demo.planeWords ≤ a.toNat ∧ a.toNat ≤ 0xFFFFFFFF))) = true := by decide
theorem witness_StatusWordHoldsErrAndEom :
    ({ demoEnd with err := .endOfMedium }.setPending [.portRead 0x01]).pending = [.portRead 0x01] ∧
    { demoEnd with err := ErrCode.endOfMedium }.status = 0x101 := ⟨rfl, by decide⟩
theorem witness_ResetClearsBlock :
    (demoEnd.setPending [.reset]).pending = [.reset] ∧
    blkIndex 0x0F = none ∧ demoEnd.planeIndex 0x0F = none ∧ blkIndex 0x106 = none ∧ demoEnd.planeIndex 0x106 = none := by
  exact ⟨rfl, by decide, by decide, by decide, by decide⟩

/-! Invariants and the rules over all commands. -/

theorem witness_StepKeepsInvariant :
    (demoMid.setPending [.portWrite 0 0x5300000000000000]).Inv ∧
    ∃ t, step (demoMid.setPending [.portWrite 0 0x5300000000000000]) = .next t := ⟨demoMid_inv.setPending _, _, rfl⟩
theorem witness_InvariantStatesNeverStop : demoEnd.Inv := demoEnd_inv
/-- The fault of log 10 needs dimensions no command can set (10_state.md R34(a)). -/
theorem witness_InvariantStatesNeverStop_fault :
    step ({ demo with width := 2048, height := 2048 }.setPending [.portWrite 0 0x1000000000000000]) =
      .fault .planeAddress := rfl
theorem witness_ReachableStatesKeepInvariants :
    ∃ t, State.Reachable t ∧ t.width = 16 ∧ t.height = 8 :=
  ⟨_, .step _ _ (.start defaultParams [.portWrite 0 0x0200000000080010] default_legal) rfl, rfl, rfl⟩
theorem witness_OperandErrors_invalidArgument :
    ∃ t, exec (.elig 0 8) demo = .next t ∧ t.err = .invalidArgument := ⟨_, rfl, rfl⟩
theorem witness_OperandErrors_bufOverflow :
    ∃ t, exec (.bbSet .s0 65536 true) demo = .next t ∧ t.err = .bufOverflow := ⟨_, rfl, rfl⟩
theorem witness_OnlyListedCommands_blk :
    ∃ t, exec (.blkLoad 16 8) (demoBlk 1) = .next t ∧ cell t.blk 0 0 ≠ cell (demoBlk 1).blk 0 0 :=
  ⟨_, rfl, by decide +kernel⟩
theorem witness_OnlyListedCommands_plane :
    ∃ t, exec (.scanWrbit true) demo = .next t ∧ t.planeAt 0 ≠ demo.planeAt 0 ∧ t.enc ≠ demo.enc :=
  ⟨_, rfl, by decide +kernel, by decide +kernel⟩
theorem witness_OnlyListedCommands_order_dims :
    (∃ t, exec (.scanInit 7) demo = .next t ∧ t.order ≠ demo.order) ∧
    (∃ t, exec (.cfgDim 8 8) demo = .next t ∧ t.width ≠ demo.width) ∧
    ∃ t, exec (.bbNew .s0) demo = .next t ∧ t.seq .s0 ≠ demo.seq .s0 :=
  ⟨⟨_, rfl, by decide⟩, ⟨_, rfl, by decide⟩, ⟨_, rfl, by decide +kernel⟩⟩
/-- The cursor is written by SCAN.ADV, and put back by SCAN.INIT and CFG.DIM; SCAN_Y is 0 in every run. -/
theorem witness_OnlyListedCommands_cursor :
    (∃ t, exec .scanAdv demoMid = .next t ∧ t.scanBx ≠ demoMid.scanBx) ∧
    (∃ t, exec .scanRdbit demo = .next t ∧ t.scanX ≠ demo.scanX) ∧
    (∃ t, exec (.scanInit 0) demoEnd = .next t ∧ t.scanBy ≠ demoEnd.scanBy) ∧
    ∃ t, exec (.cfgDim 8 8) { demo with scanY := 1 } = .next t ∧ t.scanY ≠ (1 : BitVec 3) :=
  ⟨⟨_, rfl, by decide +kernel⟩, ⟨_, rfl, by decide +kernel⟩, ⟨_, rfl, by decide +kernel⟩, ⟨_, rfl, by decide⟩⟩
theorem witness_EomChanges_set :
    (demoAt 3 (bitsOf 0 0) (bitsOf 0 0)).eom = false ∧
    ∃ t, exec .scanAdv (demoAt 3 (bitsOf 0 0) (bitsOf 0 0)) = .next t ∧ t.eom = true :=
  ⟨rfl, _, rfl, by decide +kernel⟩
theorem witness_EomChanges_clear : demoEnd.eom = true ∧ ∃ t, exec (.cfgDim 8 8) demoEnd = .next t ∧ t.eom = false :=
  ⟨rfl, _, rfl, rfl⟩
theorem witness_LengthsDecreaseOnlyByBbNew : ∃ t, exec (.bbClrr .s0 0 3) demo = .next t ∧ Instr.bbClrr .s0 0 3 ≠ .bbNew .s0 :=
  ⟨_, rfl, by decide⟩

/-! Image and block commands. -/

theorem witness_CfgDim :
    (1024 * 1024 ≤ demo.planeWords ∧ demo.planeWords < 1024 * 1025) ∧ 1025 < 2 ^ demo.widths.dimBits.val := by decide
theorem witness_BlkLoad_BlkStore_StoreThenLoad : demo.width.toNat * demo.height.toNat ≤ demo.planeWords := by decide
/-- A cell inside the plane and one outside, at offset `(12, 4)` of the demo. -/
theorem witness_BlkStore_inside_outside :
    12 + 3 < demo.width.toNat ∧ 4 + 3 < demo.height.toNat ∧ ¬12 + 4 < demo.width.toNat := by decide
theorem witness_MidGray :
    demo.num = defaultParams.num ∧ demo.params.ctab = defaultParams.ctab ∧
    (∀ r c : Fin 8, cell (demoBlk 0x4060000000000000).blk r c = 0x4060000000000000) ∧
    ∀ r c : Fin 8, cell (demoBlk 0).blk r c = 0 := by
  refine ⟨rfl, rfl, ?_, ?_⟩ <;> intro r c <;> simp [cell, demoBlk]

/-! Numbers, the predicate, the written bit. -/

/-- A NaN, both infinities, a zero and a number. -/
theorem witness_NanResultsAreCanonical :
    isNaN .binary64 0x7FF0000000000001 = true ∧ isInf .binary64 0x7FF0000000000000 = true ∧
    isInf .binary64 0xFFF0000000000000 = true ∧
    isNegative .binary64 0x7FF0000000000000 ≠ isNegative .binary64 0xFFF0000000000000 ∧
    isFinite .binary64 0 ∧ units .binary64 0 = 0 ∧ isFinite .binary64 1 ∧ units .binary64 1 ≠ 0 ∧
    isNaN .binary64 (fadd .binary64 0x7FF0000000000001 1) = true := by unfold isFinite; decide +kernel
/-- 1.0 + 2^-53 is a tie: 1.0 and the number after it are equally near, and 1.0 is even. It is below the overflow bound; the
greatest finite number added to itself is not. The last clause: 0 + -0. -/
theorem witness_SumIsRoundedToNearestEven :
    isFinite .binary64 0x3FF0000000000000 ∧ isFinite .binary64 0x3CA0000000000000 ∧ isFinite .binary64 0x3FF0000000000001 ∧
    2 * (signedUnits .binary64 0x3FF0000000000000 + signedUnits .binary64 0x3CA0000000000000).natAbs <
      overflowTwice .binary64 ∧
    (signedUnits .binary64 0x3FF0000000000000 -
        (signedUnits .binary64 0x3FF0000000000000 + signedUnits .binary64 0x3CA0000000000000)).natAbs =
      (signedUnits .binary64 0x3FF0000000000001 -
        (signedUnits .binary64 0x3FF0000000000000 + signedUnits .binary64 0x3CA0000000000000)).natAbs ∧
    isFinite .binary64 0x7FEFFFFFFFFFFFFF ∧
    overflowTwice .binary64 ≤
      2 * (signedUnits .binary64 0x7FEFFFFFFFFFFFFF + signedUnits .binary64 0x7FEFFFFFFFFFFFFF).natAbs ∧
    signedUnits .binary64 0 + signedUnits .binary64 0x8000000000000000 = 0 := by unfold isFinite; decide +kernel
/-- c4 times c4 below the bound, the square of 2^512 at or above it; 1.0 over 3.0 below it, the greatest number over the least
above it; 1.0 over 0. -/
theorem witness_ProductAndQuotient :
    isFinite .binary64 0x3FD6A09E667F3BCD ∧
    2 * (signedUnits .binary64 0x3FD6A09E667F3BCD * signedUnits .binary64 0x3FD6A09E667F3BCD).natAbs <
      overflowTwice .binary64 * unitScale .binary64 ∧
    isFinite .binary64 0x5FF0000000000000 ∧
    overflowTwice .binary64 * unitScale .binary64 ≤
      2 * (signedUnits .binary64 0x5FF0000000000000 * signedUnits .binary64 0x5FF0000000000000).natAbs ∧
    units .binary64 0x4008000000000000 ≠ 0 ∧
    overflowTwice .binary64 * units .binary64 1 ≤
      2 * (signedUnits .binary64 0x7FEFFFFFFFFFFFFF * (unitScale .binary64 : Int)).natAbs ∧
    units .binary64 0 = 0 ∧ units .binary64 0x3FF0000000000000 ≠ 0 := by unfold isFinite; decide +kernel
theorem witness_Elig_orders : (7 ≤ demo.orderMax ∧ demo.orderMax < 8) ∧ (63 < 64) := by decide
/-- Each line of the table is met: 19.999999999999996 at orders 0 and 1, 16.999 and 20.5 at order 2. -/
theorem witness_Elig_rows :
    absInRange .binary64 0x4033FFFFFFFFFFFF 2 20 ∧ absInRange .binary64 0x4033FFFFFFFFFFFF 4 20 ∧
    absInRange .binary64 0x4030FFBE76C8B439 8 17 ∧ absInRange .binary64 0x4034800000000000 20 21 := by
  unfold absInRange
  decide +kernel
/-- A number of each format, with the bit that is there and the other one. -/
theorem witness_WrittenBit :
    isEligible .binary64 0xC030000000000000 2 = true ∧ carriedBit .binary64 0xC030000000000000 2 = false ∧ (2 : Nat) ≤ 7 ∧
    isEligible .binary32 0xC1800000 2 = true ∧ (0xC1800000 : Word).toNat < 2 ^ (NumFormat.binary32.signAt + 1) := by
  decide +kernel

/-! The sequences. -/

theorem witness_BbSetAndClr : 65535 < demo.bitCap ∧ demo.bitCap ≤ 65536 := by decide
theorem witness_BbRanges :
    (65536 ≤ 65536 ∧ 65536 ≤ demo.bitCap) ∧ (3 < 7 : Prop) ∧ (0 ≤ 65537 ∧ demo.bitCap < 65537) := by decide
theorem witness_BbApp :
    ((demoAt 0 (bitsOf 0 65535) (bitsOf 0 0)).seq .s0).length < demo.bitCap ∧
    demo.bitCap ≤ ((demoAt 0 (bitsOf 0 65536) (bitsOf 0 0)).seq .s0).length := by decide +kernel
theorem witness_BbAppall :
    ((demoAt 0 (bitsOf 0 65533) (bitsOf 5 3)).seq .s0).length + ((demoAt 0 (bitsOf 0 65533) (bitsOf 5 3)).seq .s1).length ≤
      demo.bitCap ∧
    demo.bitCap <
      ((demoAt 0 (bitsOf 0 65534) (bitsOf 5 3)).seq .s0).length +
        ((demoAt 0 (bitsOf 0 65534) (bitsOf 5 3)).seq .s1).length := by decide +kernel

/-! The Hamming codec. -/

theorem witness_HamEnc_HamDec : DefaultCode demo.params ∧ ∃ t, exec (.hamEnc 15) demo = .next t := ⟨⟨rfl, rfl⟩, _, rfl⟩
/-- A codeword, a word one flip from one, and a word whose syndrome 110 is no column of an `H` that lacks it. -/
theorem witness_HamDecFindsNearest :
    DefaultCode demo.params ∧ (∀ i, parityOf demo.params 0x7F i = false) ∧
    (∃ i, parityOf demo.params 0x54 i = true) ∧ (∀ i, demo.params.hBit i 0 = parityOf demo.params 0x54 i) ∧
    (∃ i, parityOf { defaultParams with hamH := #v[0x01, 0x02, 0x04] } 0x03 i = true) ∧
    ∀ j, j < 7 → ∃ i, { defaultParams with hamH := #v[0x01, 0x02, 0x04] }.hBit i j ≠
      parityOf { defaultParams with hamH := #v[0x01, 0x02, 0x04] } 0x03 i :=
  ⟨⟨rfl, rfl⟩, by decide, by decide, by decide, by decide, by decide⟩
/-- An `H` with a missing column makes DecodeError reachable (60_exceptions.md R239). -/
theorem witness_OperandErrors_decodeError :
    ∃ t, exec (.hamDec 3) { demo with params := { defaultParams with hamH := #v[0x01, 0x02, 0x04] } } = .next t ∧
      t.err = .decodeError := ⟨_, rfl, by decide⟩
theorem witness_HamDecTwoFlips : (15 : Nat) < 16 ∧ (5 : Nat) < 6 ∧ (6 : Nat) < 7 := by decide
theorem witness_HamPutb :
    ((demoAt 0 (bitsOf 0 65522) (bitsOf 0 0)).seq .s0).length + 14 ≤ demo.bitCap ∧
    demo.bitCap < ((demoAt 0 (bitsOf 0 65523) (bitsOf 0 0)).seq .s0).length + 14 := by decide +kernel
theorem witness_HamGetb :
    14 * 1 + 14 ≤ ((demoAt 0 (bitsOf 0x1B78 28) (bitsOf 0 0)).seq .s0).length ∧
    ((demoAt 0 (bitsOf 0x1B78 27) (bitsOf 0 0)).seq .s0).length < 14 * 1 + 14 := by decide +kernel
theorem witness_PutByteReadsBack :
    (255 : Nat) < 256 ∧ ((demoAt 0 (bitsOf 0x1B78 14) (bitsOf 0 0)).seq .s0).length = 14 * 1 ∧
    14 * 1 + 14 ≤ demo.bitCap := by decide +kernel

/-! The scanner. -/

theorem witness_ScanInit_ScanCount_orders : demo.Inv ∧ (7 ≤ demo.orderMax ∧ demo.orderMax < 8) := ⟨demo_inv, by decide⟩
theorem witness_ScanAdv_Rdbit_Wrbit_next : demo.Inv ∧ demo.eligibleAhead.head? = some 0 :=
  ⟨demo_inv, by rw [demo_ahead]; rfl⟩
theorem witness_ScanAdv_Rdbit_Wrbit_last : demoMid.Inv ∧ demoMid.eligibleAhead.head? = some 8 :=
  ⟨demoMid_inv, by rw [demoMid_ahead]; rfl⟩
theorem witness_ScanAdv_Rdbit_Wrbit_end : demoEnd.Inv ∧ demoEnd.eligibleAhead = [] := ⟨demoEnd_inv, demoEnd_ahead⟩
theorem witness_ScanAdv_Rdbit_Wrbit_none :
    (demoAt 3 (bitsOf 5 3) (bitsOf 0 0)).Inv ∧ (demoAt 3 (bitsOf 5 3) (bitsOf 0 0)).eligibleAhead = [] :=
  ⟨demoAt_inv 3 (bitsOf_wf (by decide) (by decide)) empty_wf, demo_order3_ahead⟩
theorem witness_ScanStat_zero : demo.enc = 0 := rfl
theorem witness_ScanStat_all : demoMid.enc ≠ 0 ∧ demoMid.chg = demoMid.enc ∧ demoMid.chg.toNat ≤ demoMid.enc.toNat := by decide
theorem witness_ScanStat_noFlip : { demoMid with chg := 0 }.enc ≠ 0 ∧ { demoMid with chg := 0 }.chg = 0 := by decide
/-- No bit to write, as many as there are positions, one more than there are. -/
theorem witness_ScanWrbuf :
    (demoAt 0 (bitsOf 0 0) (bitsOf 2 2)).Inv ∧ ((demoAt 0 (bitsOf 0 0) (bitsOf 2 2)).seq .s0).length = 0 ∧
    ((demoAt 0 (bitsOf 0 0) (bitsOf 2 2)).seq .s1).length ≤ (demoAt 0 (bitsOf 0 0) (bitsOf 2 2)).eligibleAhead.length ∧
    demo.Inv ∧ demo.eligibleAhead.length < (demo.seq .s0).length :=
  ⟨demoAt_inv 0 empty_wf (bitsOf_wf (by decide) (by decide)), by decide +kernel, by decide +kernel, demo_inv,
    by rw [demo_ahead]; decide +kernel⟩
/-- Room to spare, no room, and room for exactly the positions left. -/
theorem witness_ScanRdbuf :
    demo.Inv ∧ demo.eligibleAhead.length < demo.bitCap - (demo.seq .s0).length ∧
    (demoAt 0 (bitsOf 0 65536) (bitsOf 0 65534)).Inv ∧
    demo.bitCap = ((demoAt 0 (bitsOf 0 65536) (bitsOf 0 65534)).seq .s0).length ∧
    0 < demo.bitCap - ((demoAt 0 (bitsOf 0 65536) (bitsOf 0 65534)).seq .s1).length ∧
    demo.bitCap - ((demoAt 0 (bitsOf 0 65536) (bitsOf 0 65534)).seq .s1).length ≤
      (demoAt 0 (bitsOf 0 65536) (bitsOf 0 65534)).eligibleAhead.length :=
  ⟨demo_inv, by rw [demo_ahead]; decide +kernel,
    demoAt_inv 0 (zeros_wf (by decide)) (zeros_wf (by decide)),
    by decide +kernel, by decide +kernel, by decide +kernel⟩
theorem witness_OrdersAboveTwo : demo.Inv ∧ (3 ≤ 3 ∧ 3 ≤ demo.orderMax) ∧ (3 ≤ 7 ∧ 7 ≤ demo.orderMax) := ⟨demo_inv, by decide, by decide⟩
/-- One bit written of two positions: the reads of all three clauses of WrittenBitsReadBackInOrder are met. -/
theorem witness_WrittenBitsReadBackInOrder :
    demo.Inv ∧ (0 ≤ demo.orderMax) ∧ [true].length ≤ (demo.positions 0).length ∧ (demo.positions 0).length = 2 :=
  ⟨demo_inv, by decide, by decide +kernel, by decide +kernel⟩
theorem witness_ScannerWritesOnlyEligibleDcWords :
    demo.Inv ∧ isScanCommand (.scanWrbit true) = true ∧
    ∃ t, exec (.scanWrbit true) demo = .next t ∧ t.planeAt 0 ≠ demo.planeAt 0 :=
  ⟨demo_inv, rfl, _, rfl, by decide +kernel⟩

/-- The same plane but for a word that is no DC word. -/
theorem witness_ScannerReadsOnlyDcWords :
    { demo with plane := [(0, 0x4018000000000000), (1, 5), (8, 0xC02C000000000001)] }.Inv ∧
    ∀ a ∈ dcAddrs demo.width.toNat demo.height.toNat,
      { demo with plane := [(0, 0x4018000000000000), (1, 5), (8, 0xC02C000000000001)] }.planeAt a = demo.planeAt a :=
  ⟨⟨default_legal, demo_inv.order, rfl, demo_inv.dimBits, rfl, ⟨rfl, rfl, rfl⟩, ⟨rfl, .inl rfl⟩, ⟨Nat.le_refl _, Nat.zero_le _⟩, demo_inv.seq0,
    demo_inv.seq1⟩, by decide +kernel⟩

/-! Framing. -/

theorem witness_FrmCap : (-(2 ^ 31) : Int) ≤ -(2 ^ 31) ∧ (2 ^ 31 - 1 : Int) < 2 ^ 31 ∧ (0 : Int) ≤ 0 ∧ (-1 : Int) < 0 := by
  decide
theorem witness_Capacity :
    (∃ t, exec (.frmCap (-1)) demo = .next t) ∧ (∃ u, exec (.frmCap 56) demo = .next u) ∧ (-1 : Int) ≤ 56 :=
  ⟨⟨_, rfl⟩, ⟨_, rfl⟩, by decide⟩

/-! The host procedures, on a plane of one row of 70 full blocks, every DC word 2.0, whose sequences hold 30 bits: two bytes. -/

def rowPlane : State :=
  { State.afterReset { defaultParams with bitCap := 30 } 0 [] [] with
    width := 560, height := 8, plane := (List.range 70).map fun k => (8 * k, 0x4000000000000000) }

theorem rowPlane_inv : rowPlane.Inv :=
  ⟨default_legal, Nat.zero_le _, by decide +kernel, ⟨by decide, by decide⟩, rfl, ⟨rfl, rfl, rfl⟩, ⟨rfl, .inl rfl⟩, ⟨Nat.le_refl _, Nat.zero_le _⟩,
    ⟨Nat.zero_le _, fun i _ => BitSeq.get_empty i⟩, ⟨Nat.zero_le _, fun i _ => BitSeq.get_empty i⟩⟩

/-- One byte and its terminator need all 70 positions; two bytes are too many; order 8 is out of range; a bit index reaches every
bit of a sequence. -/
theorem witness_ImprintThenExtract :
    rowPlane.Inv ∧ DefaultCode rowPlane.params ∧ 14 ≤ rowPlane.bitCap ∧ 0 ≤ rowPlane.orderMax ∧
    14 * ([0x68#8].length + 4) ≤ (rowPlane.positions 0).length ∧ (∀ b ∈ [0x68#8], b ≠ 0) ∧
    (rowPlane.positions 0).length < 14 * ([0x68#8, 0x69#8].length + 4) ∧ rowPlane.orderMax < 8 ∧
    rowPlane.bitCap ≤ 2 ^ rowPlane.widths.idxBits.val :=
  ⟨rowPlane_inv, ⟨rfl, rfl⟩, by decide, by decide, by decide +kernel, by decide, by decide +kernel, by decide,
    by decide⟩

/-- 45_framing.md R222: one piece is the listed sequence, a longer message goes on without SCAN.INIT. -/
theorem test_imprintCommands :
    imprintCommands 65536 1 [0x68#8] =
      [.bbNew .s0, .hamPutb .s0 0x68, .hamPutb .s0 0, .hamPutb .s0 0, .hamPutb .s0 0, .hamPutb .s0 0, .scanInit 1,
        .scanWrbuf .s0] ∧
    imprintCommands 30 1 [0x68#8] =
      [.bbNew .s0, .hamPutb .s0 0x68, .hamPutb .s0 0, .scanInit 1, .scanWrbuf .s0, .bbNew .s0, .hamPutb .s0 0,
        .hamPutb .s0 0, .scanWrbuf .s0, .bbNew .s0, .hamPutb .s0 0, .scanWrbuf .s0] := by decide

end Sys2Proof.Machine
end

section
/-! PROOFS. What each compound operation of the state leaves unchanged, one lemma an operation, and how it moves EOM. -/

namespace Sys2Proof.Machine

/-- EVERYTHING ONE CELL OF BLK.STORE CAN DO: it writes its plane word, or is dropped outside the plane
(40_block_transform.md R110). -/
theorem State.storeCell_cases (s : State) (x0 y0 : Nat) (k : Fin 64) :
    (∃ r c, s.insidePlane x0 y0 r c = true ∧
      s.storeCell x0 y0 k = s.setPlaneAt (s.cellAddr x0 y0 r c) (cell s.blk r c)) ∨
    s.storeCell x0 y0 k = s := by
  by_cases hin : s.insidePlane x0 y0 ⟨k.val / 8, by omega⟩ ⟨k.val % 8, by omega⟩ = true
  · exact .inl ⟨_, _, hin, if_pos hin⟩
  · exact .inr (if_neg hin)

/-- BLK.STORE keeps whatever a write inside the plane keeps (40_block_transform.md R110). -/
theorem State.storeBlock_induction {P : State → Prop} (x0 y0 : Nat)
    (hwrite : ∀ t r c, P t → t.insidePlane x0 y0 r c = true → P (t.setPlaneAt (t.cellAddr x0 y0 r c) (cell t.blk r c)))
    {s : State} (hs : P s) : P (s.storeBlock x0 y0) := by
  unfold State.storeBlock
  generalize List.finRange 64 = ks
  induction ks generalizing s with
  | nil => exact hs
  | cons k ks ih =>
    have hcell : P (s.storeCell x0 y0 k) := by
      rcases s.storeCell_cases x0 y0 k with ⟨r, c, hin, h⟩ | h <;> rw [h]
      · exact hwrite s r c hs hin
      · exact hs
    exact ih hcell

/-- BLK.STORE changes the plane only (10_state.md R32). -/
theorem State.storeBlock_frame (s : State) (x0 y0 : Nat) : ∃ m, s.storeBlock x0 y0 = { s with plane := m } := by
  refine State.storeBlock_induction (P := fun t => ∃ m, t = { s with plane := m }) x0 y0 ?_ ⟨s.plane, rfl⟩
  rintro t r c ⟨m, rfl⟩ -
  exact ⟨_, rfl⟩

@[simp] theorem State.storeBlock_keeps (s : State) (x0 y0 : Nat) :
    (s.storeBlock x0 y0).blk = s.blk ∧ (∀ q, (s.storeBlock x0 y0).seq q = s.seq q) ∧
    (s.storeBlock x0 y0).width = s.width ∧ (s.storeBlock x0 y0).height = s.height ∧
    (s.storeBlock x0 y0).order = s.order ∧ (s.storeBlock x0 y0).scanBx = s.scanBx ∧
    (s.storeBlock x0 y0).scanBy = s.scanBy ∧ (s.storeBlock x0 y0).scanX = s.scanX ∧
    (s.storeBlock x0 y0).scanY = s.scanY ∧ (s.storeBlock x0 y0).eom = s.eom ∧
    (s.storeBlock x0 y0).enc = s.enc ∧ (s.storeBlock x0 y0).chg = s.chg ∧
    (s.storeBlock x0 y0).seqNo = s.seqNo ∧ (s.storeBlock x0 y0).pending = s.pending ∧
    (s.storeBlock x0 y0).responses = s.responses ∧ (s.storeBlock x0 y0).epoch = s.epoch ∧
    (s.storeBlock x0 y0).params = s.params := by
  obtain ⟨m, hm⟩ := s.storeBlock_frame x0 y0
  simp only [hm, true_and, and_true]
  intro q
  cases q <;> rfl

/-- `advance` moves the cursor and EOM, nothing else (44_scanner.md R192(e)). -/
@[simp] theorem State.advance_keeps (s : State) :
    s.advance.1.blk = s.blk ∧ s.advance.1.plane = s.plane ∧ (∀ a, s.advance.1.planeAt a = s.planeAt a) ∧
    (∀ q, s.advance.1.seq q = s.seq q) ∧ s.advance.1.width = s.width ∧ s.advance.1.height = s.height ∧
    s.advance.1.order = s.order ∧ s.advance.1.enc = s.enc ∧ s.advance.1.chg = s.chg ∧
    s.advance.1.seqNo = s.seqNo ∧ s.advance.1.pending = s.pending ∧ s.advance.1.responses = s.responses ∧
    s.advance.1.epoch = s.epoch ∧ s.advance.1.params = s.params := by
  rw [s.advance_frame]
  refine ⟨rfl, rfl, fun _ => rfl, fun q => ?_, rfl, rfl, rfl, rfl, rfl, rfl, rfl, rfl, rfl, rfl⟩
  cases q <;> rfl

/-- What a walk that may write the plane and count has in common with the state it began in. -/
theorem State.SameOutsideScan.keeps {s t : State} (h : s.SameOutsideScan t) :
    t.blk = s.blk ∧ (∀ q, t.seq q = s.seq q) ∧ t.width = s.width ∧ t.height = s.height ∧ t.order = s.order ∧
    t.seqNo = s.seqNo ∧ t.pending = s.pending ∧ t.responses = s.responses ∧ t.epoch = s.epoch ∧ t.params = s.params := by
  obtain ⟨hblk, hseq0, hseq1, hwidth, hheight, horder, -, -, hseqNo, hpending, hresponses, hepoch, hparams⟩ := h
  refine ⟨hblk, fun q => ?_, hwidth, hheight, horder, hseqNo, hpending, hresponses, hepoch, hparams⟩
  cases q
  · exact hseq0
  · exact hseq1

@[simp] theorem State.writeBit_keeps (s : State) (bit : Bool) :
    (s.writeBit bit).1.blk = s.blk ∧ (∀ q, (s.writeBit bit).1.seq q = s.seq q) ∧
    (s.writeBit bit).1.width = s.width ∧ (s.writeBit bit).1.height = s.height ∧
    (s.writeBit bit).1.order = s.order ∧ (s.writeBit bit).1.seqNo = s.seqNo ∧
    (s.writeBit bit).1.pending = s.pending ∧ (s.writeBit bit).1.responses = s.responses ∧
    (s.writeBit bit).1.epoch = s.epoch ∧ (s.writeBit bit).1.params = s.params :=
  (s.writeBit_sameOutside bit).keeps

@[simp] theorem State.writeSeq_keeps (q : BitSeq) (left n : Nat) (s : State) :
    (State.writeSeq q left n s).1.blk = s.blk ∧ (∀ i, (State.writeSeq q left n s).1.seq i = s.seq i) ∧
    (State.writeSeq q left n s).1.width = s.width ∧ (State.writeSeq q left n s).1.height = s.height ∧
    (State.writeSeq q left n s).1.order = s.order ∧ (State.writeSeq q left n s).1.seqNo = s.seqNo ∧
    (State.writeSeq q left n s).1.pending = s.pending ∧ (State.writeSeq q left n s).1.responses = s.responses ∧
    (State.writeSeq q left n s).1.epoch = s.epoch ∧ (State.writeSeq q left n s).1.params = s.params :=
  (State.writeSeq_sameOutside q left n s).keeps

/-- The loop of SCAN.RDBUF moves the cursor, EOM and the sequence it fills, nothing else (44_scanner.md R198, R203). -/
@[simp] theorem State.readSeq_keeps (i : SeqId) (room n : Nat) (s : State) :
    (State.readSeq i room n s).blk = s.blk ∧ (∀ a, (State.readSeq i room n s).planeAt a = s.planeAt a) ∧
    (State.readSeq i room n s).width = s.width ∧ (State.readSeq i room n s).height = s.height ∧
    (State.readSeq i room n s).order = s.order ∧ (State.readSeq i room n s).enc = s.enc ∧
    (State.readSeq i room n s).chg = s.chg ∧ (State.readSeq i room n s).seqNo = s.seqNo ∧
    (State.readSeq i room n s).pending = s.pending ∧ (State.readSeq i room n s).responses = s.responses ∧
    (State.readSeq i room n s).epoch = s.epoch ∧ (State.readSeq i room n s).params = s.params := by
  induction room generalizing n s with
  | zero => simp [State.readSeq]
  | succ room ih =>
    have hkeeps := s.advance_keeps
    rcases hadv : s.advance with ⟨t, _ | a⟩ <;> simp only [hadv] at hkeeps <;>
      simp [State.readSeq, hadv, ih, hkeeps]

/-- SCAN.RDBUF leaves the sequence it does not name (44_scanner.md R198). -/
theorem State.readSeq_seq_other {i j : SeqId} (hj : j ≠ i) (room n : Nat) (s : State) :
    (State.readSeq i room n s).seq j = s.seq j := by
  induction room generalizing n s with
  | zero => simp [State.readSeq]
  | succ room ih =>
    have hkeeps := s.advance_keeps
    rcases hadv : s.advance with ⟨t, _ | a⟩ <;> simp only [hadv] at hkeeps <;>
      simp [State.readSeq, hadv, ih, State.seq_setSeq_other, hj, hkeeps]

/-- The one sequence a write changes is the one it names. -/
theorem State.eq_of_setSeq_seq_ne {s : State} {p q : SeqId} {v : BitSeq} (h : (s.setSeq p v).seq q ≠ s.seq q) : p = q := by
  by_contra hpq
  exact h (State.seq_setSeq_other s v (Ne.symm hpq))

/-! EOM once set stays set under the scanner's moves (10_state.md R26; 44_scanner.md R192). -/

theorem State.advance_eom_of_eom {s : State} (h : s.eom = true) : s.advance.1.eom = true := by
  simp [State.advance, h]

theorem State.writeBit_eom_of_eom {s : State} (bit : Bool) (h : s.eom = true) : (s.writeBit bit).1.eom = true := by
  have heom := State.advance_eom_of_eom h
  rcases s.writeBit_cases bit with ⟨t, hadv, hw⟩ | ⟨t, a, hadv, hw⟩ <;> rw [hadv] at heom <;> simpa [hw] using heom

theorem State.writeSeq_eom_of_eom (q : BitSeq) (left n : Nat) {s : State} (h : s.eom = true) :
    (State.writeSeq q left n s).1.eom = true := by
  induction left generalizing n s with
  | zero => exact h
  | succ left ih =>
    have heom := State.writeBit_eom_of_eom (q.get n) h
    rcases hw : s.writeBit (q.get n) with ⟨t, _ | flipped⟩ <;> rw [hw] at heom <;> simp only [State.writeSeq, hw]
    · exact heom
    · exact ih (n + 1) heom

theorem State.readSeq_eom_of_eom (i : SeqId) (room n : Nat) {s : State} (h : s.eom = true) :
    (State.readSeq i room n s).eom = true := by
  induction room generalizing n s with
  | zero => exact h
  | succ room ih =>
    have heom := State.advance_eom_of_eom h
    rcases hadv : s.advance with ⟨t, _ | a⟩ <;> rw [hadv] at heom <;> simp only [State.readSeq, hadv]
    · exact heom
    · exact ih (n + 1) (by simpa using heom)

end Sys2Proof.Machine
end

section
/-! PROOFS. Everything a command can do, said once: one case for each kind of effect. -/

namespace Sys2Proof.Machine

/-- The commands that write a range of sequence `q` by `State.mutate` (42_bit_sequence.md R153 to R158; 43_hamming.md R176). -/
inductive MutatesSeq (q : SeqId) : Instr → Prop where
  | bbSet (n : Nat) (b : Bool) : MutatesSeq q (.bbSet q n b)
  | bbClr (n : Nat) : MutatesSeq q (.bbClr q n)
  | bbSetr (lo hi : Nat) : MutatesSeq q (.bbSetr q lo hi)
  | bbClrr (lo hi : Nat) : MutatesSeq q (.bbClrr q lo hi)
  | bbApp (b : Bool) : MutatesSeq q (.bbApp q b)
  | bbAppall (src : SeqId) : MutatesSeq q (.bbAppall q src)
  | hamPutb (byte : Nat) : MutatesSeq q (.hamPutb q byte)

/-- The state a command leaves, by the kind of its effect. `raise` stands for every completion: `return v` is `raise` with the
code of no error (60_exceptions.md R243). -/
inductive CommandEffect (s : State) : Instr → State → Prop where
  /-- a command that only answers, or raises before it writes anything -/
  | answered (i : Instr) (kind : ErrCode) (r : Word) : CommandEffect s i (s.raise kind r)
  | blockLoaded (x0 y0 : Nat) (b : Block) : CommandEffect s (.blkLoad x0 y0) ((s.setBlk b).ret 0)
  | blockTransformed (i : Instr) (b : Block) :
      i ∈ [.dctFwd, .dctInv, .qnt, .dqnt, .xfmFwd, .xfmInv] → CommandEffect s i ((s.setBlk b).ret 0)
  | blockStored (x0 y0 : Nat) : CommandEffect s (.blkStore x0 y0) ((s.storeBlock x0 y0).ret 0)
  | dimsSet (w h : Nat) : w * h ≤ s.planeWords → CommandEffect s (.cfgDim w h) (((s.setDims w h).rewind).ret 0)
  | scanBegun (o : Nat) : o ≤ s.orderMax → CommandEffect s (.scanInit o) (((s.setOrder o).rewind).ret 0)
  | seqEmptied (q : SeqId) : CommandEffect s (.bbNew q) ((s.setSeq q BitSeq.empty).ret 0)
  | seqMutated (i : Instr) (q : SeqId) (lo n v : Nat) : MutatesSeq q i → lo + n ≤ s.bitCap →
      CommandEffect s i ((s.setSeq q ((s.seq q).put lo n v)).ret 0)
  | scanAdvanced (i : Instr) (kind : ErrCode) (r : Word) : i = .scanAdv ∨ i = .scanRdbit →
      CommandEffect s i (s.advance.1.raise kind r)
  | bitWritten (b : Bool) (kind : ErrCode) (r : Word) : CommandEffect s (.scanWrbit b) ((s.writeBit b).1.raise kind r)
  | bitsWritten (q : SeqId) (kind : ErrCode) (r : Word) :
      CommandEffect s (.scanWrbuf q) ((State.writeSeq (s.seq q) (s.seq q).length 0 s).1.raise kind r)
  | bitsRead (q : SeqId) : CommandEffect s (.scanRdbuf q) (State.readSeq q (s.bitCap - (s.seq q).length) 0 s)

/-- A next state is the state the command computed. -/
theorem eq_of_next {s t : State} (h : (Host.Outcome.next s : Result) = .next t) : t = s := by
  cases h
  rfl

namespace CommandEffect

theorem of_mutate {s : State} {i : Instr} {q : SeqId} (hi : MutatesSeq q i) (lo n v : Nat) :
    CommandEffect s i (s.mutate q lo n v) := by
  rcases s.mutate_cases q lo n v with ⟨-, h⟩ | ⟨hcap, h⟩ <;> rw [h]
  · exact .answered i _ _
  · exact .seqMutated i q lo n v hi hcap

theorem of_mutateRange {s : State} {i : Instr} {q : SeqId} (hi : MutatesSeq q i) (lo hi' : Nat) (bit : Bool) :
    CommandEffect s i (s.mutateRange q lo hi' bit) := by
  unfold State.mutateRange
  split
  · exact .answered i _ _
  · exact .of_mutate hi _ _ _

theorem cfgDim (s : State) (w h : Nat) :
    CommandEffect s (.cfgDim w h)
      (if s.planeWords < w * h then s.raise .invalidArgument 0 else ((s.setDims w h).rewind).ret 0) := by
  split
  · exact .answered _ _ _
  · exact .dimsSet w h (by omega)

theorem scanInit (s : State) (o : Nat) :
    CommandEffect s (.scanInit o)
      (if s.orderLegal o then ((s.setOrder o).rewind).ret 0 else s.raise .invalidArgument 0) := by
  split
  · rename_i ho
    exact .scanBegun o (by simpa [State.orderLegal] using ho)
  · exact .answered _ _ _

end CommandEffect

/-- EVERYTHING A COMMAND CAN DO (30_encoding.md R80; 60_exceptions.md R243). -/
theorem exec_effect {i : Instr} {s t : State} (h : exec i s = .next t) : CommandEffect s i t := by
  cases i with
  | cfgDim w h' => rw [eq_of_next h]; exact .cfgDim s w h'
  | blkLoad x0 y0 => rw [(State.onPlane_next h).2]; exact .blockLoaded x0 y0 _
  | blkStore x0 y0 => rw [(State.onPlane_next h).2]; exact .blockStored x0 y0
  | dctFwd => rw [eq_of_next h]; exact .blockTransformed _ _ (by simp)
  | dctInv => rw [eq_of_next h]; exact .blockTransformed _ _ (by simp)
  | qnt => rw [eq_of_next h]; exact .blockTransformed _ _ (by simp)
  | dqnt => rw [eq_of_next h]; exact .blockTransformed _ _ (by simp)
  | xfmFwd => rw [eq_of_next h]; exact .blockTransformed _ _ (by simp)
  | xfmInv => rw [eq_of_next h]; exact .blockTransformed _ _ (by simp)
  | elig k order => rw [eq_of_next h]; split <;> exact .answered _ _ _
  | bbNew q => rw [eq_of_next h]; exact .seqEmptied q
  | bbGet q n => rw [eq_of_next h]; exact .answered _ _ _
  | bbSet q n bit => rw [eq_of_next h]; exact .of_mutate (.bbSet n bit) _ _ _
  | bbClr q n => rw [eq_of_next h]; exact .of_mutate (.bbClr n) _ _ _
  | bbSetr q lo hi => rw [eq_of_next h]; exact .of_mutateRange (.bbSetr lo hi) _ _ _
  | bbClrr q lo hi => rw [eq_of_next h]; exact .of_mutateRange (.bbClrr lo hi) _ _ _
  | bbApp q bit => rw [eq_of_next h]; exact .of_mutate (.bbApp bit) _ _ _
  | bbAppall d q => rw [eq_of_next h]; exact .of_mutate (.bbAppall q) _ _ _
  | bbLen q => rw [eq_of_next h]; exact .answered _ _ _
  | hamEnc n => rw [eq_of_next h]; exact .answered _ _ _
  | hamDec w => rw [eq_of_next h]; split <;> exact .answered _ _ _
  | hamPutb q byte => rw [eq_of_next h]; exact .of_mutate (.hamPutb byte) _ _ _
  | hamGetb q k =>
    rw [eq_of_next h]
    split
    · exact .answered _ _ _
    · split <;> exact .answered _ _ _
  | scanInit order => rw [eq_of_next h]; exact .scanInit s order
  | scanAdv =>
    have heffect := fun kind r => CommandEffect.scanAdvanced (s := s) .scanAdv kind r (.inl rfl)
    rw [(State.onScan_next h).2]
    rcases hadv : s.advance with ⟨u, _ | a⟩ <;> rw [hadv] at heffect <;> exact heffect _ _
  | scanRdbit =>
    have heffect := fun kind r => CommandEffect.scanAdvanced (s := s) .scanRdbit kind r (.inr rfl)
    rw [(State.onScan_next h).2]
    rcases hadv : s.advance with ⟨u, _ | a⟩ <;> rw [hadv] at heffect <;> exact heffect _ _
  | scanWrbit bit =>
    have heffect := CommandEffect.bitWritten (s := s) bit
    rw [(State.onScan_next h).2]
    rcases hw : s.writeBit bit with ⟨u, _ | flipped⟩ <;> rw [hw] at heffect <;> exact heffect _ _
  | scanStat => rw [eq_of_next h]; exact .answered _ _ _
  | scanWrbuf q =>
    have heffect := CommandEffect.bitsWritten (s := s) q
    rw [(State.onScan_next h).2]
    rcases hw : State.writeSeq (s.seq q) (s.seq q).length 0 s with ⟨u, _ | n⟩ <;> rw [hw] at heffect <;>
      exact heffect _ _
  | scanRdbuf q => rw [(State.onScan_next h).2]; exact .bitsRead q
  | scanCount order => rw [(State.onPlane_next h).2]; split <;> exact .answered _ _ _
  | frmCap n => rw [eq_of_next h]; exact .answered _ _ _

end Sys2Proof.Machine
end

section
/-! PROOFS. Which commands write each state (10_state.md R22 to R32), read off the kinds of effect. -/

namespace Sys2Proof.Machine.CommandEffect

variable {s t : State} {i : Instr}

/-- No command's own effect writes SEQ, the parameters or what the model keeps beside the block (logs 1, 2, 6, 7, 12). -/
theorem keeps_bookkeeping (h : CommandEffect s i t) :
    t.seqNo = s.seqNo ∧ t.pending = s.pending ∧ t.responses = s.responses ∧ t.epoch = s.epoch ∧ t.params = s.params := by
  cases h with
  | _ => simp

/-- 10_state.md R22. -/
theorem blk_writer (h : CommandEffect s i t) (hne : t.blk ≠ s.blk) :
    (∃ x0 y0, i = .blkLoad x0 y0) ∨ i ∈ [.dctFwd, .dctInv, .qnt, .dqnt, .xfmFwd, .xfmInv] := by
  cases h with
  | blockLoaded x0 y0 b => exact .inl ⟨x0, y0, rfl⟩
  | blockTransformed i b hi => exact .inr hi
  | _ => simp at hne

/-- 10_state.md R32. -/
theorem plane_writer (h : CommandEffect s i t) (hne : ∃ a, t.planeAt a ≠ s.planeAt a) :
    (∃ x0 y0, i = .blkStore x0 y0) ∨ (∃ b, i = .scanWrbit b) ∨ (∃ q, i = .scanWrbuf q) := by
  obtain ⟨a, hne⟩ := hne
  cases h with
  | blockStored x0 y0 => exact .inl ⟨x0, y0, rfl⟩
  | bitWritten b kind r => exact .inr (.inl ⟨b, rfl⟩)
  | bitsWritten q kind r => exact .inr (.inr ⟨q, rfl⟩)
  | _ => simp at hne

/-- 10_state.md R27. -/
theorem dims_writer (h : CommandEffect s i t) (hne : t.width ≠ s.width ∨ t.height ≠ s.height) :
    ∃ w h, i = .cfgDim w h := by
  cases h with
  | dimsSet w h => exact ⟨w, h, rfl⟩
  | _ => simp at hne

/-- 10_state.md R28. -/
theorem order_writer (h : CommandEffect s i t) (hne : t.order ≠ s.order) : ∃ o, i = .scanInit o := by
  cases h with
  | scanBegun o => exact ⟨o, rfl⟩
  | _ => simp at hne

/-- 10_state.md R29, the cursor. -/
theorem cursor_writer (h : CommandEffect s i t)
    (hne : t.scanBx ≠ s.scanBx ∨ t.scanBy ≠ s.scanBy ∨ t.scanX ≠ s.scanX ∨ t.scanY ≠ s.scanY) :
    i = .scanAdv ∨ i = .scanRdbit ∨ (∃ b, i = .scanWrbit b) ∨ (∃ q, i = .scanWrbuf q) ∨ (∃ q, i = .scanRdbuf q) ∨
      (∃ o, i = .scanInit o) ∨ (∃ w h, i = .cfgDim w h) := by
  cases h with
  | dimsSet w h => simp
  | scanBegun o => simp
  | scanAdvanced i kind r hi => exact hi.imp_right .inl
  | bitWritten b kind r => simp
  | bitsWritten q kind r => simp
  | bitsRead q => simp
  | _ => simp at hne

/-- 10_state.md R29, the counters. -/
theorem counters_writer (h : CommandEffect s i t) (hne : t.enc ≠ s.enc ∨ t.chg ≠ s.chg) :
    (∃ b, i = .scanWrbit b) ∨ (∃ q, i = .scanWrbuf q) ∨ (∃ o, i = .scanInit o) ∨ (∃ w h, i = .cfgDim w h) := by
  cases h with
  | dimsSet w h => simp
  | scanBegun o => simp
  | bitWritten b kind r => simp
  | bitsWritten q kind r => simp
  | _ => simp at hne

/-- 10_state.md R30. -/
theorem seq_writer (h : CommandEffect s i t) {q : SeqId} (hne : t.seq q ≠ s.seq q) :
    i = .bbNew q ∨ MutatesSeq q i ∨ i = .scanRdbuf q := by
  cases h with
  | seqEmptied p =>
    rw [State.ret_seq] at hne
    exact .inl (by rw [State.eq_of_setSeq_seq_ne hne])
  | seqMutated i p lo n v hi =>
    rw [State.ret_seq] at hne
    exact .inr (.inl (State.eq_of_setSeq_seq_ne hne ▸ hi))
  | bitsRead p =>
    have hpq : q = p := by
      by_contra hother
      exact hne (State.readSeq_seq_other hother _ _ _)
    exact .inr (.inr (by rw [hpq]))
  | _ => simp at hne

/-- 10_state.md R26: EOM goes to 1. -/
theorem eom_setter (h : CommandEffect s i t) (hs : s.eom = false) (ht : t.eom = true) :
    i = .scanAdv ∨ i = .scanRdbit ∨ (∃ b, i = .scanWrbit b) ∨ (∃ q, i = .scanWrbuf q) ∨ (∃ q, i = .scanRdbuf q) := by
  cases h with
  | scanAdvanced i kind r hi => exact hi.imp_right .inl
  | bitWritten b kind r => simp
  | bitsWritten q kind r => simp
  | bitsRead q => simp
  | _ => simp [hs] at ht

/-- 10_state.md R26: EOM goes to 0. -/
theorem eom_clearer (h : CommandEffect s i t) (hs : s.eom = true) (ht : t.eom = false) :
    t.err = .ok ∧ ((∃ o, i = .scanInit o) ∨ ∃ w h, i = .cfgDim w h) := by
  cases h with
  | dimsSet w h => exact ⟨rfl, .inr ⟨w, h, rfl⟩⟩
  | scanBegun o => exact ⟨rfl, .inl ⟨o, rfl⟩⟩
  | scanAdvanced i kind r hi => simp [State.advance_eom_of_eom hs] at ht
  | bitWritten b kind r => simp [State.writeBit_eom_of_eom b hs] at ht
  | bitsWritten q kind r => simp [State.writeSeq_eom_of_eom _ _ _ hs] at ht
  | bitsRead q => simp [State.readSeq_eom_of_eom q _ _ hs] at ht
  | _ => simp [hs] at ht

end Sys2Proof.Machine.CommandEffect

namespace Sys2Proof.Machine

/-- Settles O18: each state's writers, one lemma a state. -/
theorem onlyListedCommandsWriteEachState : Obligations.OnlyListedCommandsWriteEachState := by
  intro i s t h
  have heffect := exec_effect h
  obtain ⟨hseqNo, -, -, hepoch, hparams⟩ := heffect.keeps_bookkeeping
  refine ⟨heffect.blk_writer, heffect.plane_writer, heffect.dims_writer, heffect.order_writer, heffect.cursor_writer,
    heffect.counters_writer, fun q hne => ?_, hseqNo, hepoch, hparams⟩
  rcases heffect.seq_writer hne with hi | hi | hi
  · exact .inl hi
  · cases hi <;> simp
  · simp [hi]

/-- Settles O19: the setters and the clearers of EOM. -/
theorem eomChangesOnlyByScannerAndCfgDim : Obligations.EomChangesOnlyByScannerAndCfgDim :=
  fun _ _ _ h => ⟨(exec_effect h).eom_setter, (exec_effect h).eom_clearer⟩

end Sys2Proof.Machine
end

section
/-! PROOFS. One move of the host: what a step does, by the move. -/

namespace Sys2Proof.Machine

theorem step_of_no_move {s : State} (h : s.pending = []) : step s = .next s := by
  simp [step, h]

theorem step_of_move {s : State} {m : HostMove} {ms : List HostMove} (h : s.pending = m :: ms) :
    step s = performMove m (s.setPending ms) := by
  simp [step, h]

/-- EVERYTHING A COMMAND WORD CAN DO: the effect of the command it decodes to, or IllegalCommand (60_exceptions.md R240). -/
theorem performWord_cases {c : Word} {s t : State} (h : performWord c s = .next t) :
    (∃ i, decode s.widths c = .ok i ∧ CommandEffect s i t) ∨ t = s.raise .illegalCommand 0 := by
  unfold performWord at h
  split at h
  · rename_i i hdecode
    exact .inl ⟨i, hdecode, exec_effect h⟩
  · exact .inr (eq_of_next h)

/-- A write to `CMD` performs its word on the state that has counted it (10_state.md R24; 60_exceptions.md R243). -/
theorem performMove_cmd (c : Word) (s : State) : performMove (.portWrite cmdAddr c) s = performWord c s.beginCommand := rfl

/-- Settles O7: SEQ is counted before the word is looked at, and no command's effect writes it. -/
theorem everyCommandCountsInSeq : Obligations.EveryCommandCountsInSeq := by
  intro s t c ms hpending hstep
  rw [step_of_move hpending] at hstep
  rcases performWord_cases ((performMove_cmd c _).symm.trans hstep) with ⟨i, -, heffect⟩ | rfl
  · obtain ⟨hseqNo, hpending', hresponses, hepoch, -⟩ := heffect.keeps_bookkeeping
    exact ⟨hseqNo, hpending', hresponses, hepoch⟩
  · exact ⟨rfl, rfl, rfl, rfl⟩

/-- Bit `i` of STATUS (10_state.md R25). -/
theorem State.getLsbD_status (s : State) (i : Nat) :
    s.status.getLsbD i = (s.err.code.getLsbD i || (decide (i = 8) && s.eom)) := by
  have hcode : (s.err.code.setWidth 64).getLsbD i = s.err.code.getLsbD i := by
    simp only [BitVec.getLsbD_setWidth, Bool.and_eq_right_iff_imp, decide_eq_true_eq]
    intro hbit
    have hlt := BitVec.lt_of_getLsbD hbit
    omega
  have heom : (bitWord s.eom <<< 8).getLsbD i = (decide (i = 8) && s.eom) := by
    cases s.eom
    · simp [bitWord]
    · have htwo : bitWord true <<< 8 = BitVec.twoPow 64 8 := by decide
      rw [htwo, BitVec.getLsbD_twoPow]
      simp [eq_comm]
  rw [State.status, BitVec.getLsbD_or, hcode, heom]

/-- `STATUS[3:0]` is ERR (10_state.md R25). -/
theorem State.status_err (s : State) : s.status.extractLsb' 0 4 = s.err.code := by
  ext i hi
  have hne : i ≠ 8 := by omega
  simp [← BitVec.getLsbD_eq_getElem, State.getLsbD_status, hi, hne]

/-- A read of STATUS (10_state.md R33). -/
theorem State.portValue_status (s : State) : s.portValue 0x01 = some s.status := rfl

/-- Settles O11: the bits of STATUS, read through the port. -/
theorem statusWordHoldsErrAndEom : Obligations.StatusWordHoldsErrAndEom := by
  refine ⟨⟨rfl, rfl, rfl, rfl, rfl, rfl⟩, fun s ms hpending => ⟨s.status, ?_, s.status_err, ?_, fun i hi hne => ?_⟩⟩
  · rw [step_of_move hpending]
    rfl
  · rw [State.getLsbD_status, BitVec.getLsbD_of_ge _ _ (by decide)]
    simp
  · simp [State.getLsbD_status, hne, BitVec.getLsbD_of_ge _ _ hi]

/-! Reset. -/

@[simp] theorem State.afterReset_params (p : Params) (epoch : Nat) (pending : List HostMove)
    (responses : List Response) : (State.afterReset p epoch pending responses).params = p := rfl

/-- Reset keeps the parameters (10_state.md R35, R38). -/
@[simp] theorem State.applyReset_params (s : State) : s.applyReset.params = s.params := by
  simp only [State.applyReset, State.afterReset_params]

/-- Reset clears STATUS (10_state.md R38). -/
theorem State.applyReset_status (s : State) : s.applyReset.status = 0 := by
  have h : ErrCode.ok.code.setWidth 64 ||| (bitWord false <<< 8) = 0 := by decide
  exact h

/-- The registers at `0x0F` and above are constants: they depend on the parameters only (10_state.md R35, R36). -/
theorem State.register_of_params_eq {s t : State} (h : t.params = s.params) {a : Nat} (ha : 0x0F ≤ a) :
    t.register a = s.register a := by
  by_cases hlast : a ≤ 0x11
  · interval_cases a
    · rfl
    · simp [State.register, State.planeWords, h]
    · simp [State.register, State.bitCap, h]
  · have hnone : ∀ u : State, u.register a = none := by
      intro u
      obtain ⟨k, rfl⟩ : ∃ k, a = k + 0x12 := ⟨a - 0x12, by omega⟩
      rfl
    rw [hnone, hnone]

/-- A constant reads the same in states with the same parameters (10_state.md R31, R35). -/
theorem State.portValue_constant {s t : State} (h : t.params = s.params) {addr : PortAddr} (ha : 0x0F ≤ addr.toNat)
    (hblk : blkIndex addr = none) (hplane : s.planeIndex addr = none) : t.portValue addr = s.portValue addr := by
  have hplane' : t.planeIndex addr = none := by rw [← hplane]; simp [State.planeIndex, State.planeWords, h]
  simp [State.portValue, hblk, hplane, hplane', State.register_of_params_eq h ha, h]

/-- Settles O12: the registers of the reset state, and the constants by `State.portValue_constant`. -/
theorem resetClearsBlock : Obligations.ResetClearsBlock := by
  intro s ms hpending
  refine ⟨(s.setPending ms).applyReset, step_of_move hpending, ?_⟩
  have hparams : (s.setPending ms).applyReset.params = s.params := by simp
  refine ⟨State.applyReset_status _, rfl, rfl, rfl, rfl, rfl, rfl, rfl, rfl, rfl, rfl, rfl, rfl, rfl, fun q => ?_,
    hparams, fun _ => State.portValue_constant hparams⟩
  cases q <;> exact ⟨BitSeq.length_empty, BitSeq.get_empty⟩

end Sys2Proof.Machine
end

section
/-! PROOFS. The walk over the full blocks: where it can end (44_scanner.md R192). -/

namespace Sys2Proof.Machine

/-- `(bx, by')` is the origin of a full block (10_state.md R34(c)). -/
structure FullBlock (width height bx by' : Nat) : Prop where
  xAligned : bx % 8 = 0
  yAligned : by' % 8 = 0
  xFits : bx + 8 ≤ width
  yFits : by' + 8 ≤ height

/-- How many full blocks come before the block at `(bx, by')`, in the scanner's order (44_scanner.md R192). -/
def blocksBefore (width bx by' : Nat) : Nat := (by' / 8) * (width / 8) + bx / 8

theorem State.blocksPassed_eq (s : State) :
    s.blocksPassed = blocksBefore s.width.toNat s.scanBx.toNat s.scanBy.toNat + s.scanX.toNat := rfl

namespace FullBlock

variable {width height bx by' : Nat}

/-- The next block in the row. -/
theorem nextInRow (h : FullBlock width height bx by') (hrow : ¬ width < bx + 8 + 8) :
    FullBlock width height (bx + 8) by' ∧ blocksBefore width (bx + 8) by' = blocksBefore width bx by' + 1 := by
  obtain ⟨hx, hy, hxw, hyh⟩ := h
  refine ⟨⟨by omega, hy, by omega, hyh⟩, ?_⟩
  simp only [blocksBefore]
  omega

/-- The first block of the next row. -/
theorem nextRow (h : FullBlock width height bx by') (hrow : width < bx + 8 + 8) (hcol : ¬ height < by' + 8 + 8) :
    FullBlock width height 0 (by' + 8) ∧ blocksBefore width 0 (by' + 8) = blocksBefore width bx by' + 1 := by
  obtain ⟨hx, hy, hxw, hyh⟩ := h
  refine ⟨⟨rfl, by omega, by omega, by omega⟩, ?_⟩
  have hdiv : (by' + 8) / 8 = by' / 8 + 1 := by omega
  simp only [blocksBefore, hdiv, Nat.add_mul]
  omega

/-- No block comes after as many blocks as there are. -/
theorem blocksBefore_lt (h : FullBlock width height bx by') :
    blocksBefore width bx by' + 1 ≤ height / 8 * (width / 8) := by
  obtain ⟨-, -, hxw, hyh⟩ := h
  have hrows : by' / 8 + 1 ≤ height / 8 := by omega
  have hblocks := Nat.mul_le_mul_right (width / 8) hrows
  rw [Nat.add_mul] at hblocks
  simp only [blocksBefore]
  omega

/-- The words of a full block lie in the plane (20_memory.md R58). -/
theorem planeAddr_lt (h : FullBlock width height bx by') : planeAddr width by' bx < width * height := by
  obtain ⟨-, -, hxw, hyh⟩ := h
  have hrows := Nat.mul_le_mul_right width (show by' + 1 ≤ height by omega)
  rw [Nat.add_mul, Nat.mul_comm height] at hrows
  simp only [planeAddr]
  omega

end FullBlock

/-- From a full block the walk accepts a full block, no earlier one, and a later one if its own DC position is behind. -/
theorem scanBlocks_accepted_block {width height : Nat} {eligible : Nat → Bool} {fuel : Nat} {ahead : Bool}
    {bx by' bx' by'' : Nat} (hblock : FullBlock width height bx by')
    (h : scanBlocks width height eligible fuel ahead bx by' = .accepted bx' by'') :
    FullBlock width height bx' by'' ∧
      blocksBefore width bx by' + (!ahead).toNat ≤ blocksBefore width bx' by'' := by
  induction fuel generalizing ahead bx by' with
  | zero => cases h
  | succ fuel ih =>
    simp only [scanBlocks] at h
    split at h
    · rename_i hhere
      cases h
      simp only [Bool.and_eq_true] at hhere
      exact ⟨hblock, by simp [hhere.1]⟩
    · have hbit := Bool.toNat_le (!ahead)
      split at h
      · rename_i hrow
        split at h
        · cases h
        · rename_i hcol
          obtain ⟨hnext, hcount⟩ := hblock.nextRow hrow hcol
          obtain ⟨hend, hle⟩ := ih hnext h
          exact ⟨hend, by omega⟩
      · rename_i hrow
        obtain ⟨hnext, hcount⟩ := hblock.nextInRow hrow
        obtain ⟨hend, hle⟩ := ih hnext h
        exact ⟨hend, by omega⟩

/-- With fuel for the blocks that are left, a walk that finds nothing ends in the row past the last full block
(44_scanner.md R192(b); log 15). -/
theorem scanBlocks_ranOut_row {width height : Nat} {eligible : Nat → Bool} {fuel : Nat} {ahead : Bool}
    {bx by' last : Nat} (hblock : FullBlock width height bx by')
    (hfuel : height / 8 * (width / 8) ≤ blocksBefore width bx by' + fuel)
    (h : scanBlocks width height eligible fuel ahead bx by' = .ranOut last) : last = 8 * (height / 8) := by
  induction fuel generalizing ahead bx by' with
  | zero =>
    have hlt := hblock.blocksBefore_lt
    omega
  | succ fuel ih =>
    simp only [scanBlocks] at h
    split at h
    · cases h
    · split at h
      · rename_i hrow
        split at h
        · rename_i hcol
          cases h
          obtain ⟨-, hy, -, hyh⟩ := hblock
          omega
        · rename_i hcol
          obtain ⟨hnext, hcount⟩ := hblock.nextRow hrow hcol
          exact ih hnext (by omega) h
      · rename_i hrow
        obtain ⟨hnext, hcount⟩ := hblock.nextInRow hrow
        exact ih hnext (by omega) h

end Sys2Proof.Machine
end

section
/-! PROOFS. The invariants of 10_state.md R34 under the operations that move the scanner or write the plane or a sequence. -/

namespace Sys2Proof.Machine

/-- `BITCAP`-bounded writes keep a sequence well-formed (42_bit_sequence.md R150). -/
theorem BitSeq.Wf.put {cap : Nat} {q : BitSeq} (hq : q.Wf cap) {lo n : Nat} (v : Nat) (hcap : lo + n ≤ cap)
    (hlt : cap < 2 ^ 24) : (q.put lo n v).Wf cap := by
  obtain ⟨hlen, hzero⟩ := hq
  have hput := q.length_put lo n v (by omega)
  refine ⟨?_, fun i hi => ?_⟩
  · rw [hput]
    split <;> omega
  · rw [hput] at hi
    have hout : q.length ≤ i ∧ ¬ (lo ≤ i ∧ i < lo + n) := by
      split at hi <;> omega
    rw [BitSeq.get_put, if_neg hout.2]
    exact hzero i hout.1

theorem BitSeq.Wf.empty (cap : Nat) : BitSeq.empty.Wf cap := ⟨Nat.zero_le _, fun i _ => BitSeq.get_empty i⟩

/-- 10_state.md R34(c), spelled out. -/
theorem State.cursorFits_iff (s : State) :
    s.cursorFits = true ↔ (s.eom = false → 8 ≤ s.width.toNat → 8 ≤ s.height.toNat →
      s.scanBx.toNat + 8 ≤ s.width.toNat ∧ s.scanBy.toNat + 8 ≤ s.height.toNat) := by
  simp only [State.cursorFits, Bool.or_eq_true, Bool.and_eq_true, decide_eq_true_eq]
  cases s.eom
  · simp
    omega
  · simp

/-! The scanner put back to the first block has its invariants, whatever the dimensions are (40_block_transform.md R108). -/

theorem State.rewind_cursorWf (s : State) : s.rewind.CursorWf :=
  ⟨rfl, rfl, s.rewind.cursorFits_iff.mpr fun _ hw hh => ⟨by simpa using hw, by simpa using hh⟩⟩

theorem State.rewind_intraWf (s : State) : s.rewind.IntraWf := ⟨rfl, .inl rfl⟩

theorem State.rewind_countersWf (s : State) : s.rewind.CountersWf := ⟨Nat.le_refl _, Nat.zero_le _⟩

/-- The cursor registers hold the origin of a full block (10_state.md R29). -/
theorem FullBlock.setCursor_toNat {s : State} {bx by' : Nat}
    (h : FullBlock s.width.toNat s.height.toNat bx by') (x : BitVec 3) :
    (s.setCursor bx by' x).scanBx.toNat = bx ∧ (s.setCursor bx by' x).scanBy.toNat = by' := by
  obtain ⟨-, -, hxw, hyh⟩ := h
  simp only [State.setCursor_scanBx, State.setCursor_scanBy, BitVec.toNat_ofNat]
  exact ⟨Nat.mod_eq_of_lt (by omega), Nat.mod_eq_of_lt (by omega)⟩

theorem FullBlock.setCursor_blocksPassed {s : State} {bx by' : Nat}
    (h : FullBlock s.width.toNat s.height.toNat bx by') :
    (s.setCursor bx by' 1).blocksPassed = blocksBefore s.width.toNat bx by' + 1 := by
  obtain ⟨hbx, hby⟩ := h.setCursor_toNat 1
  rw [State.blocksPassed_eq, hbx, hby]
  rfl

/-- There are fewer blocks than a 32-bit counter counts (10_state.md R29). -/
theorem State.blocksPassed_lt (s : State) : s.blocksPassed < 2 ^ 32 - 1 := by
  have hrows : s.scanBy.toNat / 8 ≤ 8191 := by omega
  have hcols : s.width.toNat / 8 ≤ 8191 := by omega
  have hblocks := Nat.mul_le_mul hrows hcols
  simp only [State.blocksPassed]
  omega

namespace State.Inv

variable {s : State}

theorem setPlaneAt (h : s.Inv) {a : Nat} (w : Word) (ha : a < s.planeWords) : (s.setPlaneAt a w).Inv :=
  ⟨h.params, h.order, Memory.wf_store _ _ _ _ h.plane ha, h.dimBits, h.dims, h.cursor, h.intra, h.counters, h.seq0,
    h.seq1⟩

/-- The dimensions fit the plane (10_state.md R34(a)). -/
theorem area_le (h : s.Inv) : s.width.toNat * s.height.toNat ≤ s.planeWords := by
  simpa [State.dimsFit] using h.dims

/-- A cell inside the plane has a plane address (20_memory.md R58, R59). -/
theorem cellAddr_lt (h : s.Inv) {x0 y0 : Nat} {r c : Fin 8} (hin : s.insidePlane x0 y0 r c = true) :
    s.cellAddr x0 y0 r c < s.planeWords := by
  simp only [State.insidePlane, Bool.and_eq_true, decide_eq_true_eq] at hin
  obtain ⟨hcol, hrow⟩ := hin
  have harea := h.area_le
  have hrows := Nat.mul_le_mul_right s.width.toNat (Nat.succ_le_of_lt hrow)
  rw [Nat.succ_mul, Nat.mul_comm s.height.toNat] at hrows
  simp only [State.cellAddr, planeAddr]
  omega

theorem storeBlock (h : s.Inv) (x0 y0 : Nat) : (s.storeBlock x0 y0).Inv :=
  State.storeBlock_induction x0 y0 (fun _ _ _ ht hin => ht.setPlaneAt _ (ht.cellAddr_lt hin)) h

/-- SCAN.INIT at a legal order (44_scanner.md R191). -/
theorem setOrder (h : s.Inv) {o : Nat} (ho : o ≤ s.orderMax) : (s.setOrder o).Inv := by
  have hlt : s.orderMax < 2 ^ 3 := s.params.orderMax.isLt
  have horder : (BitVec.ofNat 3 o).toNat = o := by
    rw [BitVec.toNat_ofNat]
    exact Nat.mod_eq_of_lt (by omega)
  exact ⟨h.params, by simpa [horder] using ho, h.plane, h.dimBits, h.dims, h.cursor, h.intra, h.counters, h.seq0, h.seq1⟩

theorem rewind (h : s.Inv) : s.rewind.Inv :=
  ⟨h.params, h.order, h.plane, h.dimBits, h.dims, s.rewind_cursorWf, s.rewind_intraWf, s.rewind_countersWf, h.seq0,
    h.seq1⟩

/-- CFG.DIM within the plane: the registers' product is no more than the operands' (40_block_transform.md R108). -/
theorem setDims_rewind (h : s.Inv) {x y : Nat} (hxy : x * y ≤ s.planeWords) : ((s.setDims x y).rewind).Inv := by
  have hpos := Nat.two_pow_pos s.widths.dimBits.val
  have hx := s.dimReg_toNat x
  have hy := s.dimReg_toNat y
  have hdimBits : (s.setDims x y).DimsWf :=
    ⟨by simpa [hx] using Nat.mod_lt x hpos, by simpa [hy] using Nat.mod_lt y hpos⟩
  have hdims : (s.setDims x y).dimsFit = true := by
    have hprod := Nat.mul_le_mul (Nat.mod_le x (2 ^ s.widths.dimBits.val)) (Nat.mod_le y (2 ^ s.widths.dimBits.val))
    simpa [State.dimsFit, hx, hy] using hprod.trans hxy
  exact ⟨h.params, h.order, h.plane, hdimBits, hdims, State.rewind_cursorWf _, State.rewind_intraWf _,
    State.rewind_countersWf _, h.seq0, h.seq1⟩

/-- A mutation within `BITCAP` keeps 10_state.md R34(f). -/
theorem setSeq_put (h : s.Inv) (q : SeqId) {lo n : Nat} (v : Nat) (hcap : lo + n ≤ s.bitCap) :
    (s.setSeq q ((s.seq q).put lo n v)).Inv :=
  h.setSeq q ((h.seq q).put v hcap s.bitCap_lt)

/-! The scanner. -/

/-- While the scan can move, the cursor stands on a full block (10_state.md R34(c)). -/
theorem cursor_fullBlock (h : s.Inv) (heom : s.eom = false) (hw : 8 ≤ s.width.toNat) (hh : 8 ≤ s.height.toNat) :
    FullBlock s.width.toNat s.height.toNat s.scanBx.toNat s.scanBy.toNat := by
  obtain ⟨hx, hy, hfits⟩ := h.cursor
  obtain ⟨hxw, hyh⟩ := s.cursorFits_iff.mp hfits heom hw hh
  exact ⟨hx, hy, hxw, hyh⟩

/-- `dcAhead` is 1 less `SCAN_X` (10_state.md R34(d)). -/
theorem scanX_toNat (h : s.Inv) : s.scanX.toNat = (!s.dcAhead).toNat := by
  obtain ⟨hy, hx | hx⟩ := h.intra <;> simp [State.dcAhead, hx, hy]

/-- The counters stay within the blocks passed, whose number a 32-bit counter holds (10_state.md R29). -/
theorem countBit (h : s.Inv) (flipped : Bool) (hroom : s.enc.toNat + 1 ≤ s.blocksPassed) : (s.countBit flipped).Inv := by
  have hbound := s.blocksPassed_lt
  obtain ⟨hle, -⟩ := h.counters
  have henc : (s.enc + 1).toNat = s.enc.toNat + 1 := by
    rw [BitVec.toNat_add]
    exact Nat.mod_eq_of_lt (by simp; omega)
  have hchg : (if flipped then s.chg + 1 else s.chg).toNat ≤ s.chg.toNat + 1 := by
    split
    · rw [BitVec.toNat_add]
      exact Nat.mod_le _ _
    · exact Nat.le_succ _
  have hcounters : (s.countBit flipped).CountersWf := by
    refine ⟨?_, ?_⟩
    · rw [State.countBit_chg, State.countBit_enc, henc]
      omega
    · rw [State.countBit_enc, henc]
      exact hroom
  exact ⟨h.params, h.order, h.plane, h.dimBits, h.dims, h.cursor, h.intra, hcounters, h.seq0, h.seq1⟩

theorem setEom (h : s.Inv) : s.setEom.Inv := by
  obtain ⟨hx, hy, -⟩ := h.cursor
  exact ⟨h.params, h.order, h.plane, h.dimBits, h.dims, ⟨hx, hy, by simp [State.cursorFits]⟩, h.intra, h.counters, h.seq0,
    h.seq1⟩

/-- The scan moves forward to a full block and past its DC word (44_scanner.md R192(d)). -/
theorem setCursor_accepted (h : s.Inv) {bx by' : Nat} (hblock : FullBlock s.width.toNat s.height.toNat bx by')
    (hcount : s.blocksPassed ≤ blocksBefore s.width.toNat bx by' + 1) : (s.setCursor bx by' 1).Inv := by
  obtain ⟨hbx, hby⟩ := hblock.setCursor_toNat 1
  have hpassed := hblock.setCursor_blocksPassed
  obtain ⟨hchg, henc⟩ := h.counters
  obtain ⟨hx, hy, hxw, hyh⟩ := hblock
  have hcursor : (s.setCursor bx by' 1).CursorWf := by
    refine ⟨by rw [hbx, hx], by rw [hby, hy], (State.cursorFits_iff _).mpr fun _ _ _ => ?_⟩
    rw [hbx, hby]
    exact ⟨hxw, hyh⟩
  exact ⟨h.params, h.order, h.plane, h.dimBits, h.dims, hcursor, ⟨rfl, .inr rfl⟩,
    ⟨hchg, by rw [hpassed]; exact henc.trans hcount⟩, h.seq0, h.seq1⟩

/-- The scan moves past the last block row and sets EOM (44_scanner.md R192(b)). -/
theorem setCursor_ranOut (h : s.Inv) (hcount : s.blocksPassed ≤ s.height.toNat / 8 * (s.width.toNat / 8)) :
    ((s.setCursor 0 (8 * (s.height.toNat / 8)) 0).setEom).Inv := by
  have hby : (BitVec.ofNat 16 (8 * (s.height.toNat / 8))).toNat = 8 * (s.height.toNat / 8) := by
    rw [BitVec.toNat_ofNat]
    exact Nat.mod_eq_of_lt (by omega)
  have hpassed : ((s.setCursor 0 (8 * (s.height.toNat / 8)) 0).setEom).blocksPassed =
      s.height.toNat / 8 * (s.width.toNat / 8) := by
    simp [State.blocksPassed, hby]
  obtain ⟨hchg, henc⟩ := h.counters
  have hcursor : ((s.setCursor 0 (8 * (s.height.toNat / 8)) 0).setEom).CursorWf :=
    ⟨rfl, by simp [hby], by simp [State.cursorFits]⟩
  exact ⟨h.params, h.order, h.plane, h.dimBits, h.dims, hcursor, ⟨rfl, .inl rfl⟩,
    ⟨hchg, by rw [hpassed]; exact henc.trans hcount⟩, h.seq0, h.seq1⟩

/-- An `advance` that succeeds keeps the invariants, passes at least one block more, and yields a plane address
(44_scanner.md R192(d)). -/
theorem advance_some (h : s.Inv) {t : State} {a : Nat} (hadv : s.advance = (t, some a)) :
    t.Inv ∧ s.blocksPassed + 1 ≤ t.blocksPassed ∧ a < t.planeWords := by
  rcases s.advance_cases with ⟨-, hres⟩ | ⟨-, -, hres⟩ | ⟨heom, hw, hh, ⟨bx, by', hwalk, hres⟩ | ⟨last, -, hres⟩⟩ <;>
    rw [hadv] at hres <;> cases hres
  obtain ⟨hblock, hcount⟩ := scanBlocks_accepted_block (h.cursor_fullBlock heom hw hh) hwalk
  have hle : s.blocksPassed ≤ blocksBefore s.width.toNat bx by' := by
    rw [State.blocksPassed_eq, h.scanX_toNat]
    exact hcount
  refine ⟨h.setCursor_accepted hblock (by omega), ?_, hblock.planeAddr_lt.trans_le h.area_le⟩
  rw [hblock.setCursor_blocksPassed]
  omega

/-- An `advance` that raises EndOfMedium keeps the invariants (44_scanner.md R192(b)). -/
theorem advance_none (h : s.Inv) {t : State} (hadv : s.advance = (t, none)) : t.Inv := by
  rcases s.advance_cases with ⟨-, hres⟩ | ⟨-, -, hres⟩ | ⟨heom, hw, hh, ⟨bx, by', -, hres⟩ | ⟨last, hwalk, hres⟩⟩ <;>
    rw [hadv] at hres <;> cases hres
  · exact h
  · exact h.setEom
  · have hblock := h.cursor_fullBlock heom hw hh
    have hpassed := hblock.blocksBefore_lt
    rw [scanBlocks_ranOut_row hblock (by rw [State.blockCount, Nat.mul_comm]; omega) hwalk]
    have hx := Bool.toNat_le (!s.dcAhead)
    refine h.setCursor_ranOut ?_
    rw [State.blocksPassed_eq, h.scanX_toNat]
    omega

theorem advance (h : s.Inv) : s.advance.1.Inv := by
  rcases hadv : s.advance with ⟨t, _ | a⟩
  · exact h.advance_none hadv
  · exact (h.advance_some hadv).1

/-- A bit written counts one of the blocks just passed (10_state.md R29; 44_scanner.md R195). -/
theorem writeBit (h : s.Inv) (bit : Bool) : (s.writeBit bit).1.Inv := by
  rcases s.writeBit_cases bit with ⟨t, hadv, hw⟩ | ⟨t, a, hadv, hw⟩ <;> rw [hw]
  · exact h.advance_none hadv
  · obtain ⟨ht, hpassed, ha⟩ := h.advance_some hadv
    obtain ⟨-, henc⟩ := h.counters
    have hfst : s.advance.1 = t := by rw [hadv]
    have hkeep : t.enc = s.enc := by simp [← hfst]
    refine (ht.setPlaneAt _ ha).countBit _ ?_
    rw [State.setPlaneAt_enc, hkeep]
    exact (Nat.succ_le_succ henc).trans hpassed

theorem writeSeq (h : s.Inv) (q : BitSeq) (left n : Nat) : (State.writeSeq q left n s).1.Inv := by
  induction left generalizing n s with
  | zero => exact h
  | succ left ih =>
    have hone := h.writeBit (q.get n)
    rcases hw : s.writeBit (q.get n) with ⟨t, _ | flipped⟩ <;> rw [hw] at hone <;> simp only [State.writeSeq, hw]
    · exact hone
    · exact ih hone (n + 1)

/-- SCAN.RDBUF appends while there is room below `BITCAP` (44_scanner.md R198). -/
theorem readSeq (h : s.Inv) (i : SeqId) (room n : Nat) (hroom : (s.seq i).length + room ≤ s.bitCap) :
    (State.readSeq i room n s).Inv := by
  induction room generalizing n s with
  | zero => exact h.raise _ _
  | succ room ih =>
    rcases hadv : s.advance with ⟨t, _ | a⟩ <;> simp only [State.readSeq, hadv]
    · exact (h.advance_none hadv).ret _
    · have hfst : s.advance.1 = t := by rw [hadv]
      have hseq : t.seq i = s.seq i := by simp [← hfst]
      have hcap : t.bitCap = s.bitCap := by simp [State.bitCap, ← hfst]
      have hlt := t.bitCap_lt
      refine ih ((h.advance_some hadv).1.setSeq_put i _ (by rw [hseq]; omega)) (n + 1) ?_
      rw [State.seq_setSeq_same, State.setSeq_bitCap, BitSeq.length_put _ _ _ _ (by rw [hseq]; omega), hseq]
      simp
      omega

end State.Inv

end Sys2Proof.Machine
end

section
/-! PROOFS. Every command, move and step keeps the invariants (10_state.md R34). -/

namespace Sys2Proof.Machine

/-- 10_state.md R34: a command keeps the invariants, by the kind of its effect. -/
theorem CommandEffect.keeps_inv {s t : State} {i : Instr} (h : CommandEffect s i t) (hs : s.Inv) : t.Inv := by
  cases h with
  | answered i kind r => exact hs.raise kind r
  | blockLoaded x0 y0 b => exact (hs.setBlk b).ret 0
  | blockTransformed i b hi => exact (hs.setBlk b).ret 0
  | blockStored x0 y0 => exact (hs.storeBlock x0 y0).ret 0
  | dimsSet w h hwh => exact (hs.setDims_rewind hwh).ret 0
  | scanBegun o ho => exact ((hs.setOrder ho).rewind).ret 0
  | seqEmptied q => exact (hs.setSeq q (.empty _)).ret 0
  | seqMutated i q lo n v hi hcap => exact (hs.setSeq_put q v hcap).ret 0
  | scanAdvanced i kind r hi => exact hs.advance.raise kind r
  | bitWritten b kind r => exact (hs.writeBit b).raise kind r
  | bitsWritten q kind r => exact (hs.writeSeq _ _ _).raise kind r
  | bitsRead q =>
    obtain ⟨hlen, -⟩ := hs.seq q
    exact hs.readSeq q _ _ (by omega)

theorem State.afterReset_inv {p : Params} (hp : p.Legal) (epoch : Nat) (pending : List HostMove)
    (responses : List Response) : (State.afterReset p epoch pending responses).Inv :=
  ⟨hp, Nat.zero_le _, rfl, ⟨Nat.two_pow_pos _, Nat.two_pow_pos _⟩, by simp [State.dimsFit, State.afterReset],
    ⟨rfl, rfl, rfl⟩, ⟨rfl, .inl rfl⟩, ⟨Nat.le_refl _, Nat.zero_le _⟩, .empty _, .empty _⟩

/-- A plane address of the port is below `PLANE_WORDS` (10_state.md R32). -/
theorem State.planeIndex_lt {s : State} {addr : PortAddr} {a : Nat} (h : s.planeIndex addr = some a) :
    a < s.planeWords := by
  unfold State.planeIndex at h
  split at h
  · have ha := Option.some.inj h
    omega
  · exact nomatch h

/-- A port write to BLK, to PLANE or to no register of either (20_memory.md R53). -/
theorem State.Inv.portStore {s : State} (h : s.Inv) (addr : PortAddr) (data : Word) : (s.portStore addr data).Inv := by
  unfold State.portStore
  split
  · exact (h.setBlk _).respond _
  · rename_i a _ ha
    exact (h.setPlaneAt data (State.planeIndex_lt ha)).respond _
  · exact h.respond _

theorem State.portStore_params (s : State) (addr : PortAddr) (data : Word) :
    (s.portStore addr data).params = s.params := by
  unfold State.portStore
  split <;> simp

/-- One move of the host keeps the invariants and the parameters (10_state.md R31, R34, R35). -/
theorem performMove_keeps_inv {m : HostMove} {s t : State} (hs : s.Inv) (h : performMove m s = .next t) :
    t.Inv ∧ t.params = s.params := by
  cases m with
  | reset =>
    rw [eq_of_next h]
    exact ⟨State.afterReset_inv hs.params _ _ _, s.applyReset_params⟩
  | portRead addr =>
    rw [eq_of_next h]
    exact ⟨hs.respond _, State.respond_params _ _⟩
  | portWrite addr data =>
    by_cases haddr : addr = cmdAddr
    · rw [haddr, performMove_cmd] at h
      have hbegun := hs.bumpSeq.respond .writeDone
      rcases performWord_cases h with ⟨i, -, heffect⟩ | rfl
      · obtain ⟨-, -, -, -, hparams⟩ := heffect.keeps_bookkeeping
        exact ⟨heffect.keeps_inv hbegun, hparams⟩
      · exact ⟨hbegun.raise _ _, State.raise_params _ _ _⟩
    · simp only [performMove, if_neg haddr] at h
      rw [eq_of_next h]
      exact ⟨hs.portStore addr data, s.portStore_params addr data⟩

/-- Settles O14: an idle step changes nothing, and a move keeps the invariants. -/
theorem stepKeepsInvariant : Obligations.StepKeepsInvariant := by
  intro s t hs hstep
  cases hpending : s.pending with
  | nil =>
    rw [step_of_no_move hpending] at hstep
    rw [eq_of_next hstep]
    exact ⟨hs, rfl⟩
  | cons m ms =>
    rw [step_of_move hpending] at hstep
    obtain ⟨ht, hparams⟩ := performMove_keeps_inv (hs.setPending ms) hstep
    exact ⟨ht, hparams.trans (s.setPending_params ms)⟩

/-- The defaults of 00_scope.md R5 are legal: every entry of the default `QTAB` is positive. -/
theorem defaultParams_legal : defaultParams.Legal := by
  unfold Params.Legal
  decide

/-- Settles O13: the defaults are legal, and the state after any reset has the invariants. -/
theorem resetStateSatisfiesInvariant : Obligations.ResetStateSatisfiesInvariant :=
  ⟨defaultParams_legal, fun _ _ hp => State.afterReset_inv hp _ _ _⟩

/-- The invariants hold in every state of every run from reset (70_reset_and_hazards.md R276). -/
theorem State.Reachable.inv {s : State} (h : s.Reachable) : s.Inv := by
  induction h with
  | start p moves hp => exact resetStateSatisfiesInvariant.2 p moves hp
  | step s t _ hstep ih => exact (stepKeepsInvariant s t ih hstep).1

/-- Settles O16: the invariants of a reachable state, spelled out. -/
theorem reachableStatesKeepInvariants : Obligations.ReachableStatesKeepInvariants := by
  intro s hs
  have hinv := hs.inv
  obtain ⟨hx, hy, hfits⟩ := hinv.cursor
  obtain ⟨hscanY, hscanX⟩ := hinv.intra
  exact ⟨⟨hinv.area_le, hinv.dimBits⟩, Nat.le_of_lt_succ s.order.isLt, hinv.order, ⟨hx, hy, s.cursorFits_iff.mp hfits⟩,
    hscanX.imp (⟨·, hscanY⟩) (⟨·, hscanY⟩), hinv.counters.1, hinv.seq⟩

end Sys2Proof.Machine
end

section
/-! PROOFS. The address map of the port (10_state.md R33; 20_memory.md R52 to R55): which address is what, what a read of it
answers and what a write to it does. -/

namespace Sys2Proof.Machine

/-! BLK and PLANE. -/

theorem blkIndex_eq_some {addr : PortAddr} {k : Fin 64} (h : addr.toNat = 0x40 + k.val) : blkIndex addr = some k := by
  have hrange : blkBase ≤ addr.toNat ∧ addr.toNat < blkBase + 64 := by simp only [blkBase]; omega
  have hindex : addr.toNat - blkBase = k.val := by simp only [blkBase]; omega
  simp only [blkIndex, dif_pos hrange, hindex]

theorem blkIndex_eq_none {addr : PortAddr} (h : ¬ (0x40 ≤ addr.toNat ∧ addr.toNat ≤ 0x7F)) : blkIndex addr = none :=
  dif_neg (by simp only [blkBase]; omega)

theorem State.planeIndex_eq_some {s : State} {addr : PortAddr} {a : Nat} (ha : a < s.planeWords)
    (h : addr.toNat = 0x40000000 + a) : s.planeIndex addr = some a := by
  have hrange : planeBase ≤ addr.toNat ∧ addr.toNat < planeBase + s.planeWords := by simp only [planeBase]; omega
  have hindex : addr.toNat - planeBase = a := by simp only [planeBase]; omega
  simp only [State.planeIndex, if_pos hrange, hindex]

theorem State.planeIndex_eq_none {s : State} {addr : PortAddr}
    (h : ¬ (0x40000000 ≤ addr.toNat ∧ addr.toNat < 0x40000000 + s.planeWords)) : s.planeIndex addr = none :=
  if_neg h

/-- Cell `(r, c)` after the word of index `k` is replaced (10_state.md R21). -/
theorem cell_set (b : Block) (k : Fin 64) (w : Word) (r c : Fin 8) :
    cell (b.set k w) r c = if 8 * r.val + c.val = k.val then w else cell b r c := by
  simp only [cell, Vector.getElem_set, eq_comm]

/-! Writes. -/

/-- `CMD` is the lowest address (10_state.md R33). -/
theorem ne_cmdAddr {addr : PortAddr} (h : 0 < addr.toNat) : addr ≠ 0 := by
  rintro rfl
  exact absurd h (by decide)

theorem State.portStore_blk {s : State} {addr : PortAddr} {k : Fin 64} (h : blkIndex addr = some k) (data : Word) :
    s.portStore addr data = (s.setBlk (s.blk.set k data)).respond .writeDone := by
  simp only [State.portStore, h]

theorem State.portStore_plane {s : State} {addr : PortAddr} {a : Nat} (hblk : blkIndex addr = none)
    (hplane : s.planeIndex addr = some a) (data : Word) :
    s.portStore addr data = (s.setPlaneAt a data).respond .writeDone := by
  simp only [State.portStore, hblk, hplane]

theorem State.portStore_other {s : State} {addr : PortAddr} (hblk : blkIndex addr = none)
    (hplane : s.planeIndex addr = none) (data : Word) : s.portStore addr data = s.respond .writeError := by
  simp only [State.portStore, hblk, hplane]

/-- A write to any address but `CMD` runs no command (20_memory.md R53). -/
theorem step_portWrite {s : State} {addr : PortAddr} {data : Word} {ms : List HostMove}
    (h : s.pending = .portWrite addr data :: ms) (haddr : addr ≠ 0) :
    step s = .next ((s.setPending ms).portStore addr data) :=
  (step_of_move h).trans (if_neg haddr)

/-- 20_memory.md R53(d): a write to a read-only or unmapped address. -/
theorem step_portWrite_other {s : State} {addr : PortAddr} {data : Word} {ms : List HostMove}
    (h : s.pending = .portWrite addr data :: ms) (haddr : addr ≠ 0)
    (hblk : ¬ (0x40 ≤ addr.toNat ∧ addr.toNat ≤ 0x7F))
    (hplane : ¬ (0x40000000 ≤ addr.toNat ∧ addr.toNat < 0x40000000 + s.planeWords)) :
    step s = .next ((s.setPending ms).respond .writeError) := by
  rw [step_portWrite h haddr,
    State.portStore_other (s := s.setPending ms) (blkIndex_eq_none hblk) (State.planeIndex_eq_none hplane)]

/-- Settles O8: one clause an area of the address map. -/
theorem portWriteEffects : Obligations.PortWriteEffects := by
  intro s addr data ms hpending
  refine ⟨fun haddr => ?_, fun hrange => ?_, fun hrange => ?_, fun ⟨haddr, hblk, hplane⟩ => ?_⟩
  · subst haddr
    exact (step_of_move hpending).trans (performMove_cmd data _)
  · have hindex : blkIndex addr = some ⟨addr.toNat - 0x40, by omega⟩ := blkIndex_eq_some (by simp only; omega)
    rw [step_portWrite hpending (ne_cmdAddr (by omega)), State.portStore_blk hindex]
    exact ⟨_, rfl, cell_set s.blk _ data, rfl⟩
  · have hindex : (s.setPending ms).planeIndex addr = some (addr.toNat - 0x40000000) :=
      State.planeIndex_eq_some (by rw [State.setPending_planeWords]; omega) (by omega)
    rw [step_portWrite hpending (ne_cmdAddr (by omega)), State.portStore_plane (blkIndex_eq_none (by omega)) hindex]
    exact ⟨_, rfl, by simp, fun a ha => by simp [State.planeAt_setPlaneAt_other _ data ha], rfl⟩
  · exact step_portWrite_other hpending haddr hblk hplane

/-! Reads. -/

/-- What a read of `addr` answers (20_memory.md R52). -/
def State.readAnswer (s : State) (addr : PortAddr) : Response :=
  match s.portValue addr with
  | some w => .readData w
  | none => .readError

theorem State.readAnswer_of_some {s : State} {addr : PortAddr} {w : Word} (h : s.portValue addr = some w) :
    s.readAnswer addr = .readData w := by
  simp only [State.readAnswer, h]

theorem State.readAnswer_of_none {s : State} {addr : PortAddr} (h : s.portValue addr = none) :
    s.readAnswer addr = .readError := by
  simp only [State.readAnswer, h]

/-- A read changes no state of the block (20_memory.md R52). -/
theorem step_portRead {s : State} {addr : PortAddr} {ms : List HostMove} (h : s.pending = .portRead addr :: ms) :
    step s = .next ((s.setPending ms).respond (s.readAnswer addr)) :=
  step_of_move h

theorem State.portValue_blk {s : State} {addr : PortAddr} {k : Fin 64} (h : blkIndex addr = some k) :
    s.portValue addr = some s.blk[k] := by
  simp only [State.portValue, h]

theorem State.portValue_plane {s : State} {addr : PortAddr} {a : Nat} (hblk : blkIndex addr = none)
    (hplane : s.planeIndex addr = some a) : s.portValue addr = some (s.planeAt a) := by
  simp only [State.portValue, hblk, hplane]

theorem State.portValue_other {s : State} {addr : PortAddr} (hblk : ¬ (0x40 ≤ addr.toNat ∧ addr.toNat ≤ 0x7F))
    (hplane : ¬ (0x40000000 ≤ addr.toNat ∧ addr.toNat < 0x40000000 + s.planeWords)) :
    s.portValue addr = (s.register addr.toNat).or (paramConstantAt s.params addr.toNat) := by
  simp only [State.portValue, blkIndex_eq_none hblk, State.planeIndex_eq_none hplane]

/-- No register stands above `0x11` (10_state.md R33). -/
theorem State.register_eq_none (s : State) {a : Nat} (ha : 0x12 ≤ a) : s.register a = none := by
  obtain ⟨k, rfl⟩ : ∃ k, a = k + 0x12 := ⟨a - 0x12, by omega⟩
  rfl

/-- No constant table stands outside `0x80` to `0x106` (10_state.md R33). -/
theorem paramConstantAt_eq_none (p : Params) {a : Nat} (ha : a < 0x80 ∨ 0x107 ≤ a) : paramConstantAt p a = none := by
  unfold paramConstantAt
  rw [dif_neg (by omega), dif_neg (by omega), dif_neg (by omega), dif_neg (by omega)]

/-! The tables (10_state.md R31, R33). -/

theorem paramConstantAt_ctab (p : Params) (i j : Fin 8) :
    paramConstantAt p (0x80 + 8 * i.val + j.val) = some (p.cos i j) := by
  unfold paramConstantAt
  rw [dif_pos (by omega)]
  simp [Params.cos, tableEntry, Nat.add_assoc]

theorem paramConstantAt_qtab (p : Params) (i j : Fin 8) :
    paramConstantAt p (0xC0 + 8 * i.val + j.val) = some (BitVec.ofNat 64 (p.quant i j)) := by
  unfold paramConstantAt
  rw [dif_neg (by omega), dif_pos (by omega)]
  simp [Params.quant, tableEntry, Nat.add_assoc]

theorem paramConstantAt_hamG (p : Params) (i : Fin 4) :
    paramConstantAt p (0x100 + i.val) = some (BitVec.ofNat 64 (p.hamG[i]).toNat) := by
  unfold paramConstantAt
  rw [dif_neg (by omega), dif_neg (by omega), dif_pos (by omega)]
  simp

theorem paramConstantAt_hamH (p : Params) (i : Fin 3) :
    paramConstantAt p (0x104 + i.val) = some (BitVec.ofNat 64 (p.hamH[i]).toNat) := by
  unfold paramConstantAt
  rw [dif_neg (by omega), dif_neg (by omega), dif_neg (by omega), dif_pos (by omega)]
  simp

/-- Addresses `0x00` to `0x3F` are registers or nothing. -/
theorem State.portValue_low (s : State) {addr : PortAddr} (h : addr.toNat < 0x40) :
    s.portValue addr = s.register addr.toNat := by
  rw [State.portValue_other (by omega) (by omega), paramConstantAt_eq_none _ (by omega), Option.or_none]

/-- Addresses `0x80` to `0x3FFFFFFF` are constants or nothing. -/
theorem State.portValue_high (s : State) {addr : PortAddr} (hlo : 0x80 ≤ addr.toNat) (hhi : addr.toNat < 0x40000000) :
    s.portValue addr = paramConstantAt s.params addr.toNat := by
  rw [State.portValue_other (by omega) (by omega), State.register_eq_none _ (by omega), Option.none_or]

/-- 20_memory.md R55: an unmapped address holds nothing. -/
theorem State.portValue_unmapped {s : State} {addr : PortAddr}
    (h : (0x12 ≤ addr.toNat ∧ addr.toNat ≤ 0x3F) ∨ (0x107 ≤ addr.toNat ∧ addr.toNat ≤ 0x3FFFFFFF) ∨
      0x40000000 + s.planeWords ≤ addr.toNat) : s.portValue addr = none := by
  rw [State.portValue_other (by omega) (by omega), State.register_eq_none _ (by omega),
    paramConstantAt_eq_none _ (by omega), Option.none_or]

/-- Settles O10: no area of the address map holds an unmapped address. -/
theorem unmappedAddressGetsPortError : Obligations.UnmappedAddressGetsPortError := by
  intro s addr ms hunmapped
  refine ⟨fun hpending => ?_, fun data hpending => ?_⟩
  · rw [step_portRead hpending, State.readAnswer_of_none (State.portValue_unmapped (by omega))]
    rfl
  · exact step_portWrite_other hpending (ne_cmdAddr (by omega)) (by omega) (by omega)

/-- A register that holds `w` (10_state.md R33). -/
theorem State.readAnswer_register {s : State} {addr reg : PortAddr} {w : Word} (haddr : addr = reg)
    (hlow : reg.toNat < 0x40) (hreg : s.register reg.toNat = some w) : s.readAnswer addr = .readData w := by
  subst haddr
  exact State.readAnswer_of_some ((s.portValue_low hlow).trans hreg)

/-- A register narrower than the word reads zero-extended (20_memory.md R52). -/
theorem State.readAnswer_narrow {s : State} {addr reg : PortAddr} {n : Nat} {x : BitVec n} (haddr : addr = reg)
    (hlow : reg.toNat < 0x40) (hreg : s.register reg.toNat = some (x.setWidth 64)) :
    s.readAnswer addr = .readData (BitVec.ofNat 64 x.toNat) := by
  rw [BitVec.ofNat_toNat]
  exact State.readAnswer_register haddr hlow hreg

/-- The length of the second sequence, where there is one (10_state.md R30; log 23). -/
theorem State.readAnswer_len1 (s : State) :
    s.readAnswer 0x0E =
      if s.widths.nbuf = .two then .readData (BitVec.ofNat 64 s.seq1.length) else .readError := by
  have hreg : s.register 0x0E = if s.widths.hasSeq .s1 then some (s.seq1.len.setWidth 64) else none := rfl
  have hvalue := (s.portValue_low (addr := 0x0E) (by decide)).trans hreg
  cases hnbuf : s.widths.nbuf with
  | one => exact State.readAnswer_of_none (by simpa [Widths.hasSeq, Widths.seqCount, SeqId.number, hnbuf] using hvalue)
  | two =>
    simpa [BitSeq.length] using
      State.readAnswer_of_some (hvalue.trans (if_pos (by simp [Widths.hasSeq, Widths.seqCount, SeqId.number, hnbuf])))

/-- An entry of a table (10_state.md R31). -/
theorem State.readAnswer_constant {s : State} {addr : PortAddr} {a : Nat} {w : Word} (haddr : addr.toNat = a)
    (hlo : 0x80 ≤ a) (hhi : a < 0x40000000) (hval : paramConstantAt s.params a = some w) :
    s.readAnswer addr = .readData w := by
  subst haddr
  exact State.readAnswer_of_some ((s.portValue_high hlo hhi).trans hval)

/-- With the parameters of 00_scope.md R5 a constant reads as it does in the default reset state. -/
theorem State.readAnswer_default {s : State} {addr const : PortAddr} {w : Word} (hparams : s.params = defaultParams)
    (haddr : addr = const) (hlo : 0x0F ≤ const.toNat) (hblk : blkIndex const = none)
    (hplane : State.reset.planeIndex const = none) (hval : State.reset.portValue const = some w) :
    s.readAnswer addr = .readData w := by
  subst haddr
  exact State.readAnswer_of_some ((State.portValue_constant (s := .reset) hparams hlo hblk hplane).trans hval)

theorem State.readAnswer_blk (s : State) {addr : PortAddr} (i j : Fin 8) (h : addr.toNat = 0x40 + 8 * i.val + j.val) :
    s.readAnswer addr = .readData (cell s.blk i j) := by
  have hindex : blkIndex addr = some ⟨8 * i.val + j.val, by omega⟩ := blkIndex_eq_some (by simp only; omega)
  exact State.readAnswer_of_some (State.portValue_blk hindex)

theorem State.readAnswer_plane (s : State) {addr : PortAddr} {a : Nat} (ha : a < s.planeWords)
    (h : addr.toNat = 0x40000000 + a) : s.readAnswer addr = .readData (s.planeAt a) :=
  State.readAnswer_of_some (State.portValue_plane (blkIndex_eq_none (by omega)) (State.planeIndex_eq_some ha h))

/-- Settles O9: the registers in the order of their addresses, the tables, their defaults, PLANE and `CMD`. -/
theorem portReadReturnsRegister : Obligations.PortReadReturnsRegister := by
  intro s addr ms hpending
  refine ⟨s.readAnswer addr, step_portRead hpending, (State.readAnswer_register · (by decide) rfl),
    (State.readAnswer_narrow · (by decide) rfl), (State.readAnswer_narrow · (by decide) rfl),
    (State.readAnswer_narrow · (by decide) rfl), (State.readAnswer_narrow · (by decide) rfl),
    (State.readAnswer_narrow · (by decide) rfl), (State.readAnswer_narrow · (by decide) rfl),
    (State.readAnswer_narrow · (by decide) rfl), (State.readAnswer_narrow · (by decide) rfl),
    (State.readAnswer_narrow · (by decide) rfl), (State.readAnswer_narrow · (by decide) rfl),
    (State.readAnswer_narrow · (by decide) rfl), fun haddr => haddr ▸ s.readAnswer_len1,
    (State.readAnswer_register · (by decide) rfl), (State.readAnswer_register · (by decide) rfl),
    (State.readAnswer_register · (by decide) rfl), s.readAnswer_blk,
    fun i j haddr => State.readAnswer_constant haddr (by omega) (by omega) (paramConstantAt_ctab _ i j),
    fun i j haddr => State.readAnswer_constant haddr (by omega) (by omega) (paramConstantAt_qtab _ i j),
    fun i haddr => State.readAnswer_constant haddr (by omega) (by omega) (paramConstantAt_hamG _ i),
    fun i haddr => State.readAnswer_constant haddr (by omega) (by omega) (paramConstantAt_hamH _ i),
    fun hparams => ?_, fun a => s.readAnswer_plane, ?_⟩
  · refine ⟨?_, ?_, ?_, ?_, ?_, ?_, ?_, ?_, ?_⟩ <;>
      exact (State.readAnswer_default hparams · (by decide) (by decide) (by decide) (by decide))
  · rintro rfl
    exact State.readAnswer_of_none (s.portValue_low (by decide))

end Sys2Proof.Machine
end

section
/-! PROOFS. No stop: a command answers a next state, or meets the fault of log 10 outside 10_state.md R34(a) or (c). -/

namespace Sys2Proof.Machine

/-- `r` is a next state, or the fault of log 10 in a state `s` that breaks 10_state.md R34(a) or (c). -/
def State.NextOrFault (s : State) (r : Result) : Prop :=
  (∃ t, r = .next t) ∨ (r = .fault .planeAddress ∧ ¬ s.PlaneLegal)

namespace State.NextOrFault

theorem next (s t : State) : s.NextOrFault (.next t) := .inl ⟨t, rfl⟩

theorem onPlane (s t : State) : s.NextOrFault (s.onPlane t) := by
  by_cases hfit : s.dimsFit = true
  · exact .inl ⟨t, State.onPlane_of_fit t hfit⟩
  · exact .inr ⟨if_neg hfit, fun hlegal => hfit hlegal.1⟩

theorem onScan (s t : State) : s.NextOrFault (s.onScan t) := by
  by_cases hlegal : s.PlaneLegal
  · obtain ⟨hdims, hcursor⟩ := hlegal
    exact .inl ⟨t, State.onScan_of_fit t hdims hcursor⟩
  · refine .inr ⟨if_neg fun hfit => hlegal ?_, hlegal⟩
    simpa [State.PlaneLegal] using hfit

/-- 20_memory.md R58: only the commands that reach plane memory can stop. -/
theorem exec (s : State) (i : Instr) : s.NextOrFault (exec i s) := by
  cases i with
  | blkLoad x0 y0 => exact .onPlane s _
  | blkStore x0 y0 => exact .onPlane s _
  | scanCount order => exact .onPlane s _
  | scanAdv => exact .onScan s _
  | scanRdbit => exact .onScan s _
  | scanWrbit bit => exact .onScan s _
  | scanWrbuf q => exact .onScan s _
  | scanRdbuf q => exact .onScan s _
  | _ => exact .next s _

/-- A word that is no command raises IllegalCommand, which is a next state (60_exceptions.md R240). -/
theorem performWord (s : State) (c : Word) : s.NextOrFault (performWord c s) := by
  unfold Machine.performWord
  split
  · exact .exec s _
  · exact .next s _

/-- Counting a command word moves nothing of 10_state.md R34(a) or (c). -/
theorem performMove (s : State) (m : HostMove) : s.NextOrFault (performMove m s) := by
  cases m with
  | reset => exact .next s _
  | portRead addr => exact .next s _
  | portWrite addr data =>
    by_cases haddr : addr = cmdAddr
    · rw [haddr, performMove_cmd]
      exact .performWord s.beginCommand data
    · rw [Machine.performMove, if_neg haddr]
      exact .next s _

theorem step (s : State) : s.NextOrFault (step s) := by
  cases hpending : s.pending with
  | nil =>
    rw [step_of_no_move hpending]
    exact .next s _
  | cons m ms =>
    rw [step_of_move hpending]
    exact .performMove (s.setPending ms) m

end State.NextOrFault

/-- The invariants hold what a plane command relies on (20_memory.md R58). -/
theorem State.Inv.planeLegal {s : State} (h : s.Inv) : s.PlaneLegal := by
  obtain ⟨-, -, hcursor⟩ := h.cursor
  exact ⟨h.dims, hcursor⟩

/-- Settles O15: a step is a next state or the fault of log 10, and the invariants exclude the fault. -/
theorem invariantStatesNeverStop : Obligations.InvariantStatesNeverStop := by
  refine ⟨fun s hs => ?_, fun s f hstep => ?_, fun s r hstep => ?_⟩ <;>
    obtain ⟨t, ht⟩ | ⟨hfault, hillegal⟩ := State.NextOrFault.step s
  · exact ⟨t, ht⟩
  · exact absurd hs.planeLegal hillegal
  · exact nomatch ht.symm.trans hstep
  · exact hillegal
  · exact nomatch ht.symm.trans hstep
  · exact nomatch hfault.symm.trans hstep

end Sys2Proof.Machine
end

section
/-! PROOFS. Decoding as selection (30_encoding.md R77, R78): the opcode bits and the unused bits of a word against a row's
mask and match, and the row a word selects. -/

namespace Sys2Proof.Laws

/-- An operand that fits its field fits a wider one. -/
theorem lt_two_pow_of_le {x n m : Nat} (hx : x < 2 ^ n) (h : n ≤ m) : x < 2 ^ m :=
  hx.trans_le (Nat.pow_le_pow_right (by decide) h)

/-- An operand that fits its field has no bit above it. -/
theorem testBit_above {x n t : Nat} (hx : x < 2 ^ n) (h : n ≤ t) : x.testBit t = false :=
  Nat.testBit_lt_two_pow (lt_two_pow_of_le hx h)

/-- Bit `t` of a field (30_encoding.md R79). -/
theorem testBit_fieldAt (c : Word) (lo n t : Nat) :
    (fieldAt c lo n).testBit t = (decide (t < n) && c.getLsbD (lo + t)) := by
  simp only [fieldAt, BitVec.testBit_toNat, BitVec.getLsbD_extractLsb']

/-- A word with no bit outside a command's used bits below the opcode (30_encoding.md R81). -/
theorem unusedBits_eq_zero_iff (c : Word) (u : BitVec 56) :
    c.extractLsb' 0 56 &&& ~~~u = 0 ↔ ∀ i < 56, c.getLsbD i = true → u.getLsbD i = true := by
  simp only [BitVec.eq_of_getLsbD_eq_iff, BitVec.getLsbD_and, BitVec.getLsbD_not, BitVec.getLsbD_extractLsb']
  refine forall₂_congr fun i hi => ?_
  simp [hi]

/-- `(c AND mask) = match`, bit by bit (30_encoding.md R78). -/
theorem selects_iff_bits (row : OpRow) (c : Word) :
    Selects row c ↔ (∀ t < 8, c.getLsbD (56 + t) = row.op.testBit t) ∧
      ∀ i < 56, c.getLsbD i = true → row.used.getLsbD i = true := by
  have hbit : ∀ i < 64, ((c &&& row.mask).getLsbD i = row.pattern.getLsbD i ↔
      (c.getLsbD i && (decide (56 ≤ i) || !row.used.getLsbD i)) = (decide (56 ≤ i) && row.op.testBit (i - 56))) := by
    intro i hi
    rw [BitVec.getLsbD_and, getLsbD_mask row i hi, OpRow.pattern, getLsbD_placed, decide_eq_true hi, Bool.true_and]
  rw [Selects, BitVec.eq_of_getLsbD_eq_iff, forall₂_congr hbit]
  constructor
  · intro h
    refine ⟨fun t ht => ?_, fun i hi => ?_⟩
    · simpa using h (56 + t) (by omega)
    · simpa [Nat.not_le.mpr hi] using h i (by omega)
  · rintro ⟨hop, hused⟩ i hi
    by_cases h : 56 ≤ i
    · obtain ⟨t, rfl⟩ := Nat.exists_eq_add_of_le h
      simpa using hop t (by omega)
    · simpa [h] using hused i (by omega)

/-- A word selects a row by its opcode and its unused bits: the two tests of `decode` (30_encoding.md R78). -/
theorem selects_iff {row : OpRow} (hop : row.op < 256) (c : Word) :
    Selects row c ↔ row.op = opcodeOf c ∧ c.extractLsb' 0 56 &&& ~~~row.used = 0 := by
  rw [selects_iff_bits, unusedBits_eq_zero_iff]
  refine and_congr_left' ⟨fun h => Nat.eq_of_testBit_eq fun t => ?_, fun h t ht => ?_⟩
  · rw [opcodeOf, testBit_fieldAt]
    by_cases ht : t < 8
    · simp [ht, h t ht]
    · simp [ht, testBit_above (n := 8) hop (Nat.not_lt.mp ht)]
  · rw [h, opcodeOf, testBit_fieldAt, decide_eq_true ht, Bool.true_and]

/-! The columns of the table (30_encoding.md R77). -/

theorem opcodeTable_ops (w : Widths) : (opcodeTable w).map OpRow.op =
    [0x02, 0x10, 0x11, 0x12, 0x13, 0x14, 0x15, 0x16, 0x17, 0x20, 0x30, 0x31, 0x32, 0x33, 0x34, 0x35, 0x36, 0x37, 0x38,
      0x40, 0x41, 0x42, 0x43, 0x50, 0x51, 0x52, 0x53, 0x54, 0x55, 0x56, 0x57, 0x60] := rfl

theorem opcodeTable_mnemonics (w : Widths) : (opcodeTable w).map OpRow.mnemonic =
    ["CFG.DIM", "BLK.LOAD", "BLK.STORE", "DCT.FWD", "DCT.INV", "QNT", "DQNT", "XFM.FWD", "XFM.INV", "ELIG", "BB.NEW",
      "BB.GET", "BB.SET", "BB.CLR", "BB.SETR", "BB.CLRR", "BB.APP", "BB.APPALL", "BB.LEN", "HAM.ENC", "HAM.DEC",
      "HAM.PUTB", "HAM.GETB", "SCAN.INIT", "SCAN.ADV", "SCAN.RDBIT", "SCAN.WRBIT", "SCAN.STAT", "SCAN.WRBUF",
      "SCAN.RDBUF", "SCAN.COUNT", "FRM.CAP"] := rfl

theorem op_lt_of_mem {w : Widths} {row : OpRow} (h : row ∈ opcodeTable w) : row.op < 256 := by
  have hall : ∀ op ∈ (opcodeTable w).map OpRow.op, op < 256 := by
    rw [opcodeTable_ops]
    decide
  exact hall _ (List.mem_map_of_mem h)

/-- No two rows have the same opcode. -/
theorem ops_nodup (w : Widths) : ((opcodeTable w).map OpRow.op).Nodup := by
  rw [opcodeTable_ops]
  decide

/-- No two rows have the same mnemonic. -/
theorem row_eq_of_mnemonic {w : Widths} {row row' : OpRow} (h : row ∈ opcodeTable w) (h' : row' ∈ opcodeTable w)
    (hname : row.mnemonic = row'.mnemonic) : row = row' := by
  have hnodup : ((opcodeTable w).map OpRow.mnemonic).Nodup := by
    rw [opcodeTable_mnemonics]
    decide
  exact List.inj_on_of_nodup_map hnodup h h' hname

/-- The command a row extracts carries the row's mnemonic. -/
theorem mnemonic_operands {w : Widths} {row : OpRow} (h : row ∈ opcodeTable w) (c : Word) :
    (Machine.listingParts (row.operands c)).1 = row.mnemonic := by
  have hcolumn : (opcodeTable w).map (fun r => (Machine.listingParts (r.operands c)).1) =
      (opcodeTable w).map OpRow.mnemonic := rfl
  exact List.map_inj_left.mp hcolumn row h

/-- Two rows a word selects have one opcode, the word's. -/
theorem op_eq_of_selects {w : Widths} {row row' : OpRow} {c : Word} (h : row ∈ opcodeTable w) (h' : row' ∈ opcodeTable w)
    (hc : Selects row c) (hc' : Selects row' c) : row.op = row'.op := by
  obtain ⟨hop, -⟩ := (selects_iff (op_lt_of_mem h) c).mp hc
  obtain ⟨hop', -⟩ := (selects_iff (op_lt_of_mem h') c).mp hc'
  exact hop.trans hop'.symm

/-- The search of `decode` finds the row of the word's opcode. -/
theorem find?_opcode_iff {w : Widths} {row : OpRow} {c : Word} :
    (opcodeTable w).find? (fun r => r.op == opcodeOf c) = some row ↔ row ∈ opcodeTable w ∧ row.op = opcodeOf c := by
  have found : ∀ r, (opcodeTable w).find? (fun r => r.op == opcodeOf c) = some r →
      r ∈ opcodeTable w ∧ r.op = opcodeOf c := fun r hfind =>
    ⟨List.mem_of_find?_eq_some hfind, by simpa using List.find?_some hfind⟩
  refine ⟨found row, fun ⟨hmem, hop⟩ => ?_⟩
  cases hfind : (opcodeTable w).find? (fun r => r.op == opcodeOf c) with
  | none => exact absurd (beq_iff_eq.mpr hop) (List.find?_eq_none.mp hfind row hmem)
  | some row' =>
    obtain ⟨hmem', hop'⟩ := found row' hfind
    rw [List.inj_on_of_nodup_map (ops_nodup w) hmem' hmem (hop'.trans hop.symm)]

/-- DECODING IS SELECTION: a word decodes to what a row it selects extracts from it (30_encoding.md R78). -/
theorem decode_eq_ok_iff (w : Widths) (c : Word) (i : Instr) :
    decode w c = .ok i ↔ ∃ row ∈ opcodeTable w, Selects row c ∧ row.operands c = i := by
  constructor
  · intro h
    unfold decode at h
    split at h
    · exact nomatch h
    · rename_i row hfind
      obtain ⟨hmem, hop⟩ := find?_opcode_iff.mp hfind
      split at h
      · rename_i hunused
        exact ⟨row, hmem, (selects_iff (op_lt_of_mem hmem) c).mpr ⟨hop, hunused⟩, Except.ok.inj h⟩
      · exact nomatch h
  · rintro ⟨row, hmem, hselects, rfl⟩
    obtain ⟨hop, hunused⟩ := (selects_iff (op_lt_of_mem hmem) c).mp hselects
    simp only [decode, find?_opcode_iff.mpr ⟨hmem, hop⟩, if_pos hunused]

/-- Settles O3: decoding is selection, the opcodes of two selected rows agree, and the default rows are computed. -/
theorem decodeSelectsByMaskAndMatch : Obligations.DecodeSelectsByMaskAndMatch := by
  refine ⟨fun w c => ⟨?_, fun k l hk hl => ?_⟩, by decide⟩
  · simp only [decode_eq_ok_iff]
    constructor
    · rintro ⟨i, row, hmem, hselects, -⟩
      exact ⟨row, hmem, hselects⟩
    · rintro ⟨row, hmem, hselects⟩
      exact ⟨row.operands c, row, hmem, hselects, rfl⟩
  · have hop := op_eq_of_selects (List.getElem_mem k.isLt) (List.getElem_mem l.isLt) hk hl
    have hindex : ((opcodeTable w).map OpRow.op)[k.val]'(by simp) = ((opcodeTable w).map OpRow.op)[l.val]'(by simp) := by
      simpa using hop
    exact Fin.ext ((ops_nodup w).getElem_inj_iff.mp hindex)

end Sys2Proof.Laws
end

section
/-! PROOFS. The word of a well-formed command decodes to it: what the fields of an encoded word read as (30_encoding.md R76,
R79). -/

namespace Sys2Proof.Laws

/-! A field of a word put together from parts. -/

@[simp] theorem fieldAt_or (a b : Word) (lo n : Nat) : fieldAt (a ||| b) lo n = fieldAt a lo n ||| fieldAt b lo n := by
  apply Nat.eq_of_testBit_eq
  intro t
  simp only [testBit_fieldAt, BitVec.getLsbD_or, Nat.testBit_or, Bool.and_or_distrib_left]

theorem fieldAt_placed (lo n x : Nat) (hx : x < 2 ^ n) (hn : lo + n ≤ 64) : fieldAt (placed lo x) lo n = x := by
  apply Nat.eq_of_testBit_eq
  intro t
  rw [testBit_fieldAt, getLsbD_placed]
  by_cases ht : t < n
  · have hlt : lo + t < 64 := by omega
    simp [ht, hlt]
  · simp [ht, testBit_above hx (Nat.not_lt.mp ht)]

/-- A part that lies above the field. -/
theorem fieldAt_placed_above (lo n lo' x : Nat) (h : lo + n ≤ lo') : fieldAt (placed lo' x) lo n = 0 := by
  apply Nat.eq_of_testBit_eq
  intro t
  rw [testBit_fieldAt, getLsbD_placed, Nat.zero_testBit]
  by_cases ht : t < n
  · have hle : ¬ lo' ≤ lo + t := by omega
    simp [hle]
  · simp [ht]

/-- A part that lies below the field. -/
theorem fieldAt_placed_below (lo n lo' x : Nat) (hx : x < 2 ^ (lo - lo')) : fieldAt (placed lo' x) lo n = 0 := by
  apply Nat.eq_of_testBit_eq
  intro t
  rw [testBit_fieldAt, getLsbD_placed, Nat.zero_testBit, testBit_above hx (by omega)]
  simp

/-- A one-bit field reads as its bit. -/
theorem flagAt_eq_of_fieldAt {c : Word} {i : Nat} {b : Bool} (h : fieldAt c i 1 = b.toNat) : flagAt c i = b := by
  have hbit : (fieldAt c i 1).testBit 0 = b.toNat.testBit 0 := by rw [h]
  rw [testBit_fieldAt] at hbit
  cases b <;> simpa [flagAt] using hbit

/-- A field that names a sequence reads as the sequence. -/
theorem ofBit_flagAt {c : Word} {i : Nat} {q : SeqId} (h : flagAt c i = q.toBit) : SeqId.ofBit (flagAt c i) = q := by
  rw [h]
  cases q <;> rfl

/-- The two's-complement reading of a field, from its unsigned reading (30_encoding.md R79). -/
theorem signedAt_eq_toInt (c : Word) (n : Nat) : signedAt c n = (BitVec.ofNat n (fieldAt c 0 n)).toInt := by
  rw [fieldAt, BitVec.ofNat_toNat, BitVec.setWidth_eq, signedAt]

/-! The operands of each format. -/

section FormatD
variable {op b a n : Nat}

theorem fieldAt_formatD_a (hn : n ≤ 16) (ha : a < 2 ^ n) : fieldAt (formatD op b a) 0 n = a := by
  simp (disch := omega) [formatD, fieldAt_placed, fieldAt_placed_above]

theorem fieldAt_formatD_b (hn : n ≤ 16) (hb : b < 2 ^ n) (ha : a < 2 ^ 16) : fieldAt (formatD op b a) 16 n = b := by
  simp (disch := omega) [formatD, fieldAt_placed, fieldAt_placed_above, fieldAt_placed_below]

end FormatD

section FormatB
variable {op j i n : Nat} {d s bit : Bool}

theorem fieldAt_formatB_i (hn : n ≤ 24) (hi : i < 2 ^ n) : fieldAt (formatB op d s bit j i) 0 n = i := by
  simp (disch := omega) [formatB, placedBit, fieldAt_placed, fieldAt_placed_above]

theorem fieldAt_formatB_j (hn : n ≤ 24) (hj : j < 2 ^ n) (hi : i < 2 ^ 24) :
    fieldAt (formatB op d s bit j i) 24 n = j := by
  simp (disch := omega) [formatB, placedBit, fieldAt_placed, fieldAt_placed_above, fieldAt_placed_below]

theorem bitField_formatB (hj : j < 2 ^ 24) (hi : i < 2 ^ 24) : bitField (formatB op d s bit j i) = bit := by
  have hbit := bit.toNat_lt
  refine flagAt_eq_of_fieldAt ?_
  simp (disch := omega) [formatB, placedBit, fieldAt_placed, fieldAt_placed_above, fieldAt_placed_below]

theorem seqField_formatB {q : SeqId} (hj : j < 2 ^ 24) (hi : i < 2 ^ 24) :
    seqField (formatB op d q.toBit bit j i) = q := by
  have hq := q.toBit.toNat_lt
  have hbit := bit.toNat_lt
  refine ofBit_flagAt (flagAt_eq_of_fieldAt ?_)
  simp (disch := omega) [formatB, placedBit, fieldAt_placed, fieldAt_placed_above, fieldAt_placed_below]

theorem dstField_formatB {q : SeqId} (hj : j < 2 ^ 24) (hi : i < 2 ^ 24) :
    dstField (formatB op q.toBit s bit j i) = q := by
  have hq := q.toBit.toNat_lt
  have hs := s.toNat_lt
  have hbit := bit.toNat_lt
  refine ofBit_flagAt (flagAt_eq_of_fieldAt ?_)
  simp (disch := omega) [formatB, placedBit, fieldAt_placed, fieldAt_placed_above, fieldAt_placed_below]

end FormatB

section FormatV
variable {op aux v n : Nat} {s : Bool}

theorem fieldAt_formatV_v (hn : n ≤ 32) (hv : v < 2 ^ n) : fieldAt (formatV op s aux v) 0 n = v := by
  simp (disch := omega) [formatV, placedBit, fieldAt_placed, fieldAt_placed_above]

theorem fieldAt_formatV_aux (haux : aux < 2 ^ 8) (hv : v < 2 ^ 32) : fieldAt (formatV op s aux v) 32 8 = aux := by
  simp (disch := omega) [formatV, placedBit, fieldAt_placed, fieldAt_placed_above, fieldAt_placed_below]

theorem seqField_formatV {q : SeqId} (haux : aux < 2 ^ 8) (hv : v < 2 ^ 32) :
    seqField (formatV op q.toBit aux v) = q := by
  have hq := q.toBit.toNat_lt
  refine ofBit_flagAt (flagAt_eq_of_fieldAt ?_)
  simp (disch := omega) [formatV, placedBit, fieldAt_placed, fieldAt_placed_above, fieldAt_placed_below]

/-- The signed operand of FRM.CAP. -/
theorem signedAt_formatV {x : Int} (hn : n ≤ 32) (hx : fitsSigned n x = true) :
    signedAt (formatV op s aux (BitVec.ofInt n x).toNat) n = x := by
  simp only [fitsSigned, decide_eq_true_eq] at hx
  rw [signedAt_eq_toInt, fieldAt_formatV_v hn (BitVec.isLt _), BitVec.ofNat_toNat, BitVec.setWidth_eq, BitVec.toInt_ofInt]
  exact Int.bmod_eq_of_le_mul_two (by push_cast; omega) (by push_cast; omega)

end FormatV

/-! The operands that several commands share; `mk` is the command. -/

theorem operands_pair {w : Widths} {x y : Nat} (mk : Nat → Nat → Instr) (op : Nat) (hx : x < 2 ^ w.dimBits.val)
    (hy : y < 2 ^ w.dimBits.val) :
    mk (fieldAt (formatD op y x) 0 w.dimBits.val) (fieldAt (formatD op y x) 16 w.dimBits.val) = mk x y := by
  have hdim := dimBits_le w
  rw [fieldAt_formatD_a hdim hx, fieldAt_formatD_b hdim hy (lt_two_pow_of_le hx hdim)]

theorem operands_seq (mk : SeqId → Instr) (op : Nat) (q : SeqId) :
    mk (seqField (formatB op false q.toBit false 0 0)) = mk q := by
  rw [seqField_formatB (by decide) (by decide)]

theorem operands_seq_index {w : Widths} {i : Nat} (mk : SeqId → Nat → Instr) (op : Nat) (q : SeqId)
    (hi : i < 2 ^ w.idxBits.val) :
    mk (seqField (formatB op false q.toBit false 0 i)) (fieldAt (formatB op false q.toBit false 0 i) 0 w.idxBits.val) =
      mk q i := by
  have hidx := idxBits_le w
  rw [seqField_formatB (by decide) (lt_two_pow_of_le hi hidx), fieldAt_formatB_i hidx hi]

theorem operands_seq_range {w : Widths} {lo hi : Nat} (mk : SeqId → Nat → Nat → Instr) (op : Nat) (q : SeqId)
    (hlo : lo < 2 ^ w.idxBits.val) (hhi : hi < 2 ^ w.idxBits.val) :
    mk (seqField (formatB op false q.toBit false hi lo)) (fieldAt (formatB op false q.toBit false hi lo) 0 w.idxBits.val)
      (fieldAt (formatB op false q.toBit false hi lo) 24 w.idxBits.val) = mk q lo hi := by
  have hidx := idxBits_le w
  have hlo24 := lt_two_pow_of_le hlo hidx
  rw [seqField_formatB (lt_two_pow_of_le hhi hidx) hlo24, fieldAt_formatB_i hidx hlo, fieldAt_formatB_j hidx hhi hlo24]

theorem operands_seq_low {n v : Nat} (mk : SeqId → Nat → Instr) (op : Nat) (q : SeqId) (hn : n ≤ 32) (hv : v < 2 ^ n) :
    mk (seqField (formatV op q.toBit 0 v)) (fieldAt (formatV op q.toBit 0 v) 0 n) = mk q v := by
  rw [seqField_formatV (by decide) (lt_two_pow_of_le hv hn), fieldAt_formatV_v hn hv]

/-! The commands. -/

/-- The word of `i` selects a row with the mnemonic of `i`, so it decodes to what that row extracts. -/
theorem decode_encode_of_row {w : Widths} {i : Instr} {row : OpRow} (k : Nat) (hmatches : MatchesTableRow.Statement i)
    (hwf : i.wellFormed w = true) (hrow : (opcodeTable w)[k]? = some row)
    (hname : row.mnemonic = (Machine.listingParts i).1) (hoperands : row.operands (encode w i) = i) :
    decode w (encode w i) = .ok i := by
  obtain ⟨row', hmem', hname', hselects⟩ := hmatches w hwf
  obtain rfl := row_eq_of_mnemonic (List.mem_of_getElem? hrow) hmem' (hname.trans hname'.symm)
  exact (decode_eq_ok_iff w _ i).mpr ⟨row, hmem', hselects, hoperands⟩

/-- Settles O1: each field of the word of a well-formed command reads as the command's operand. -/
theorem decodeEncodeRoundTrip : Obligations.DecodeEncodeRoundTrip := by
  intro w i hwf
  have hfit := hwf
  cases i with simp only [Instr.wellFormed, fitsField, Bool.and_eq_true, decide_eq_true_eq] at hfit
  | cfgDim x y =>
    obtain ⟨hx, hy⟩ := hfit
    exact decode_encode_of_row 0 (MatchesTableRow.cfgDim x y) hwf rfl rfl (operands_pair .cfgDim _ hx hy)
  | blkLoad x0 y0 =>
    obtain ⟨hx, hy⟩ := hfit
    exact decode_encode_of_row 1 (MatchesTableRow.blkLoad x0 y0) hwf rfl rfl (operands_pair .blkLoad _ hx hy)
  | blkStore x0 y0 =>
    obtain ⟨hx, hy⟩ := hfit
    exact decode_encode_of_row 2 (MatchesTableRow.blkStore x0 y0) hwf rfl rfl (operands_pair .blkStore _ hx hy)
  | dctFwd => exact decode_encode_of_row 3 MatchesTableRow.dctFwd hwf rfl rfl rfl
  | dctInv => exact decode_encode_of_row 4 MatchesTableRow.dctInv hwf rfl rfl rfl
  | qnt => exact decode_encode_of_row 5 MatchesTableRow.qnt hwf rfl rfl rfl
  | dqnt => exact decode_encode_of_row 6 MatchesTableRow.dqnt hwf rfl rfl rfl
  | xfmFwd => exact decode_encode_of_row 7 MatchesTableRow.xfmFwd hwf rfl rfl rfl
  | xfmInv => exact decode_encode_of_row 8 MatchesTableRow.xfmInv hwf rfl rfl rfl
  | elig k order =>
    obtain ⟨hk, horder⟩ := hfit
    exact decode_encode_of_row 9 (MatchesTableRow.elig k order) hwf rfl rfl
      (congrArg₂ Instr.elig (fieldAt_formatV_v (by decide) hk)
        (fieldAt_formatV_aux horder (lt_two_pow_of_le hk (by decide))))
  | bbNew q =>
    exact decode_encode_of_row 10 (MatchesTableRow.bbNew q) hwf rfl rfl (operands_seq .bbNew _ q)
  | bbGet q i =>
    obtain ⟨-, hi⟩ := hfit
    exact decode_encode_of_row 11 (MatchesTableRow.bbGet q i) hwf rfl rfl (operands_seq_index .bbGet _ q hi)
  | bbSet q i bit =>
    obtain ⟨-, hi⟩ := hfit
    have hidx := idxBits_le w
    have hi24 := lt_two_pow_of_le hi hidx
    exact decode_encode_of_row 12 (MatchesTableRow.bbSet q i bit) hwf rfl rfl
      (congr (congrArg₂ Instr.bbSet (seqField_formatB (by decide) hi24) (fieldAt_formatB_i hidx hi))
        (bitField_formatB (by decide) hi24))
  | bbClr q i =>
    obtain ⟨-, hi⟩ := hfit
    exact decode_encode_of_row 13 (MatchesTableRow.bbClr q i) hwf rfl rfl (operands_seq_index .bbClr _ q hi)
  | bbSetr q lo hi =>
    obtain ⟨⟨-, hlo⟩, hhi⟩ := hfit
    exact decode_encode_of_row 14 (MatchesTableRow.bbSetr q lo hi) hwf rfl rfl
      (operands_seq_range .bbSetr _ q hlo hhi)
  | bbClrr q lo hi =>
    obtain ⟨⟨-, hlo⟩, hhi⟩ := hfit
    exact decode_encode_of_row 15 (MatchesTableRow.bbClrr q lo hi) hwf rfl rfl
      (operands_seq_range .bbClrr _ q hlo hhi)
  | bbApp q bit =>
    exact decode_encode_of_row 16 (MatchesTableRow.bbApp q bit) hwf rfl rfl
      (congrArg₂ Instr.bbApp (seqField_formatB (by decide) (by decide)) (bitField_formatB (by decide) (by decide)))
  | bbAppall d q =>
    exact decode_encode_of_row 17 (MatchesTableRow.bbAppall d q) hwf rfl rfl
      (congrArg₂ Instr.bbAppall (dstField_formatB (by decide) (by decide)) (seqField_formatB (by decide) (by decide)))
  | bbLen q =>
    exact decode_encode_of_row 18 (MatchesTableRow.bbLen q) hwf rfl rfl (operands_seq .bbLen _ q)
  | hamEnc n =>
    exact decode_encode_of_row 19 (MatchesTableRow.hamEnc n) hwf rfl rfl
      (congrArg Instr.hamEnc (fieldAt_formatV_v (by decide) hfit))
  | hamDec x =>
    exact decode_encode_of_row 20 (MatchesTableRow.hamDec x) hwf rfl rfl
      (congrArg Instr.hamDec (fieldAt_formatV_v (by decide) hfit))
  | hamPutb q byte =>
    obtain ⟨-, hbyte⟩ := hfit
    exact decode_encode_of_row 21 (MatchesTableRow.hamPutb q byte) hwf rfl rfl
      (operands_seq_low .hamPutb _ q (by decide) hbyte)
  | hamGetb q k =>
    obtain ⟨-, hk⟩ := hfit
    exact decode_encode_of_row 22 (MatchesTableRow.hamGetb q k) hwf rfl rfl
      (operands_seq_low .hamGetb _ q (by decide) hk)
  | scanInit order =>
    exact decode_encode_of_row 23 (MatchesTableRow.scanInit order) hwf rfl rfl
      (congrArg Instr.scanInit (fieldAt_formatV_aux hfit (by decide)))
  | scanAdv => exact decode_encode_of_row 24 MatchesTableRow.scanAdv hwf rfl rfl rfl
  | scanRdbit => exact decode_encode_of_row 25 MatchesTableRow.scanRdbit hwf rfl rfl rfl
  | scanWrbit bit =>
    exact decode_encode_of_row 26 (MatchesTableRow.scanWrbit bit) hwf rfl rfl
      (congrArg Instr.scanWrbit (bitField_formatB (by decide) (by decide)))
  | scanStat => exact decode_encode_of_row 27 MatchesTableRow.scanStat hwf rfl rfl rfl
  | scanWrbuf q =>
    exact decode_encode_of_row 28 (MatchesTableRow.scanWrbuf q) hwf rfl rfl (operands_seq .scanWrbuf _ q)
  | scanRdbuf q =>
    exact decode_encode_of_row 29 (MatchesTableRow.scanRdbuf q) hwf rfl rfl (operands_seq .scanRdbuf _ q)
  | scanCount order =>
    exact decode_encode_of_row 30 (MatchesTableRow.scanCount order) hwf rfl rfl
      (congrArg Instr.scanCount (fieldAt_formatV_aux hfit (by decide)))
  | frmCap n =>
    exact decode_encode_of_row 31 (MatchesTableRow.frmCap n) hwf rfl rfl
      (congrArg Instr.frmCap (signedAt_formatV (capBits_le w) hfit))

end Sys2Proof.Laws
end

section
/-! PROOFS. A word that decodes is the word of its command: a row extracts operands that fit their fields, and reads all its
used bits, so two words that select a row with the same operands are equal (30_encoding.md R78, R81). -/

namespace Sys2Proof.Laws

/-- `c` and `v` have the same bits where `u` has a 1. -/
def AgreeOn (u : BitVec 56) (c v : Word) : Prop := ∀ i, u.getLsbD i = true → c.getLsbD i = v.getLsbD i

namespace AgreeOn
variable {c v : Word}

theorem none : AgreeOn 0 c v := by
  intro i hi
  simp at hi

theorem or {u u' : BitVec 56} (h : AgreeOn u c v) (h' : AgreeOn u' c v) : AgreeOn (u ||| u') c v := by
  intro i hi
  rw [BitVec.getLsbD_or, Bool.or_eq_true] at hi
  exact hi.elim (h i) (h' i)

theorem field {lo n : Nat} (h : fieldAt c lo n = fieldAt v lo n) : AgreeOn (bitsAt lo n) c v := by
  intro i hi
  simp only [getLsbD_bitsAt, Bool.and_eq_true, decide_eq_true_eq] at hi
  obtain ⟨-, hlo, hlt⟩ := hi
  obtain ⟨t, rfl⟩ := Nat.exists_eq_add_of_le hlo
  have hbit : (fieldAt c lo n).testBit t = (fieldAt v lo n).testBit t := by rw [h]
  have ht : t < n := by omega
  simpa [testBit_fieldAt, ht] using hbit

/-- A one-bit field, as wide as it is or of no width. -/
theorem flag {lo n : Nat} (hn : n ≤ 1) (h : flagAt c lo = flagAt v lo) : AgreeOn (bitsAt lo n) c v := by
  intro i hi
  simp only [getLsbD_bitsAt, Bool.and_eq_true, decide_eq_true_eq] at hi
  obtain rfl : i = lo := by omega
  exact h

theorem seq {w : Widths} {lo : Nat} (h : SeqId.ofBit (flagAt c lo) = SeqId.ofBit (flagAt v lo)) :
    AgreeOn (w.seqBitsAt lo) c v := by
  refine flag ?_ ?_
  · cases hw : w.nbuf <;> simp [Widths.seqBits, hw]
  · cases hc : flagAt c lo <;> cases hv : flagAt v lo <;> simp_all [SeqId.ofBit]

theorem signed {n : Nat} (h : signedAt c n = signedAt v n) : AgreeOn (bitsAt 0 n) c v :=
  field (congrArg BitVec.toNat (BitVec.eq_of_toInt_eq h))

/-- The two operands of format D. -/
theorem pair {w : Widths} (ha : fieldAt c 0 w.dimBits.val = fieldAt v 0 w.dimBits.val)
    (hb : fieldAt c 16 w.dimBits.val = fieldAt v 16 w.dimBits.val) : AgreeOn w.pairBits c v :=
  (field ha).or (field hb)

/-- The two operands of a bit range. -/
theorem range {w : Widths} (hi : fieldAt c 0 w.idxBits.val = fieldAt v 0 w.idxBits.val)
    (hj : fieldAt c 24 w.idxBits.val = fieldAt v 24 w.idxBits.val) : AgreeOn w.rangeBits c v :=
  (field hi).or (field hj)

end AgreeOn

/-- Words that select a row agree outside its used bits. -/
theorem Selects.eq_of_agreeOn {row : OpRow} {c v : Word} (hc : Selects row c) (hv : Selects row v)
    (h : AgreeOn row.used c v) : c = v := by
  obtain ⟨hopc, hunusedc⟩ := (selects_iff_bits row c).mp hc
  obtain ⟨hopv, hunusedv⟩ := (selects_iff_bits row v).mp hv
  apply BitVec.eq_of_getLsbD_eq
  intro i hi
  by_cases hop : 56 ≤ i
  · obtain ⟨t, rfl⟩ := Nat.exists_eq_add_of_le hop
    rw [hopc t (by omega), hopv t (by omega)]
  · cases hused : row.used.getLsbD i with
    | true => exact h i hused
    | false =>
      have hzero : ∀ {x : Word}, (x.getLsbD i = true → row.used.getLsbD i = true) → x.getLsbD i = false := by
        simp [hused]
      rw [hzero (hunusedc i (by omega)), hzero (hunusedv i (by omega))]

/-- A row reads all its used bits: words with the same operands agree on them. -/
def ReadsUsedBits (row : OpRow) : Prop := ∀ c v, row.operands c = row.operands v → AgreeOn row.used c v

theorem blockRows_readUsedBits (w : Widths) : (blockRows w).Forall ReadsUsedBits := by
  simp only [blockRows, List.forall_cons]
  exact ⟨fun _ _ h => let ⟨hx, hy⟩ := Instr.cfgDim.inj h; .pair hx hy,
    fun _ _ h => let ⟨hx, hy⟩ := Instr.blkLoad.inj h; .pair hx hy,
    fun _ _ h => let ⟨hx, hy⟩ := Instr.blkStore.inj h; .pair hx hy,
    fun _ _ _ => .none, fun _ _ _ => .none, fun _ _ _ => .none,
    fun _ _ _ => .none, fun _ _ _ => .none, fun _ _ _ => .none,
    fun _ _ h => let ⟨hk, horder⟩ := Instr.elig.inj h; (AgreeOn.field hk).or (.field horder), trivial⟩

theorem sequenceRows_readUsedBits (w : Widths) : (sequenceRows w).Forall ReadsUsedBits := by
  simp only [sequenceRows, List.forall_cons]
  exact ⟨fun _ _ h => .seq (Instr.bbNew.inj h),
    fun _ _ h => let ⟨hq, hi⟩ := Instr.bbGet.inj h; (AgreeOn.seq hq).or (.field hi),
    fun _ _ h => let ⟨hq, hi, hbit⟩ := Instr.bbSet.inj h; ((AgreeOn.seq hq).or (.flag (by decide) hbit)).or (.field hi),
    fun _ _ h => let ⟨hq, hi⟩ := Instr.bbClr.inj h; (AgreeOn.seq hq).or (.field hi),
    fun _ _ h => let ⟨hq, hlo, hhi⟩ := Instr.bbSetr.inj h; (AgreeOn.seq hq).or (.range hlo hhi),
    fun _ _ h => let ⟨hq, hlo, hhi⟩ := Instr.bbClrr.inj h; (AgreeOn.seq hq).or (.range hlo hhi),
    fun _ _ h => let ⟨hq, hbit⟩ := Instr.bbApp.inj h; (AgreeOn.seq hq).or (.flag (by decide) hbit),
    fun _ _ h => let ⟨hd, hq⟩ := Instr.bbAppall.inj h; (AgreeOn.seq hd).or (.seq hq),
    fun _ _ h => .seq (Instr.bbLen.inj h), trivial⟩

theorem mediumRows_readUsedBits (w : Widths) : (mediumRows w).Forall ReadsUsedBits := by
  simp only [mediumRows, List.forall_cons]
  exact ⟨fun _ _ h => .field (Instr.hamEnc.inj h),
    fun _ _ h => .field (Instr.hamDec.inj h),
    fun _ _ h => let ⟨hq, hbyte⟩ := Instr.hamPutb.inj h; (AgreeOn.seq hq).or (.field hbyte),
    fun _ _ h => let ⟨hq, hk⟩ := Instr.hamGetb.inj h; (AgreeOn.seq hq).or (.field hk),
    fun _ _ h => .field (Instr.scanInit.inj h),
    fun _ _ _ => .none,
    fun _ _ _ => .none,
    fun _ _ h => .flag (by decide) (Instr.scanWrbit.inj h),
    fun _ _ _ => .none,
    fun _ _ h => .seq (Instr.scanWrbuf.inj h),
    fun _ _ h => .seq (Instr.scanRdbuf.inj h),
    fun _ _ h => .field (Instr.scanCount.inj h),
    fun _ _ h => .signed (Instr.frmCap.inj h), trivial⟩

/-- Every row of the table reads all the bits it uses. -/
theorem opcodeTable_readUsedBits {w : Widths} {row : OpRow} (h : row ∈ opcodeTable w) : ReadsUsedBits row := by
  have hall : (opcodeTable w).Forall ReadsUsedBits := List.forall_append.mpr
    ⟨List.forall_append.mpr ⟨blockRows_readUsedBits w, sequenceRows_readUsedBits w⟩, mediumRows_readUsedBits w⟩
  exact List.forall_iff_forall_mem.mp hall row h

/-! Operands fit their fields. -/

@[simp] theorem fitsField_fieldAt (c : Word) (lo n : Nat) : fitsField n (fieldAt c lo n) = true :=
  decide_eq_true (BitVec.isLt _)

@[simp] theorem fitsSigned_signedAt (c : Word) (n : Nat) : fitsSigned n (signedAt c n) = true :=
  decide_eq_true ⟨BitVec.le_two_mul_toInt, BitVec.two_mul_toInt_lt⟩

/-- In a block with one sequence every used bit lies below the fields that name a sequence (00_scope.md R5, `NBUF`). -/
theorem usedBit_lt_of_one {w : Widths} (hw : w.nbuf = .one) (i : Nat) :
    ∀ row ∈ opcodeTable w, row.used.getLsbD i = true → i < 49 := by
  have hdim := dimBits_le w
  have hidx := idxBits_le w
  have hcap := capBits_le w
  simp only [opcodeTable, blockRows, sequenceRows, mediumRows, List.forall_mem_append, List.forall_mem_cons,
    List.not_mem_nil, Widths.pairBits, Widths.indexBits, Widths.rangeBits, Widths.seqBitsAt, Widths.seqBits, hw,
    BitVec.getLsbD_or, getLsbD_bitsAt, BitVec.ofNat_eq_ofNat, BitVec.getLsbD_zero, Bool.or_eq_true, Bool.and_eq_true,
    decide_eq_true_eq, Bool.false_eq_true, false_imp_iff, implies_true, true_and, and_true]
  omega

/-- A command names only sequences the block has. -/
theorem hasSeq_of_selects {w : Widths} {row : OpRow} {c : Word} (h : row ∈ opcodeTable w) (hc : Selects row c) :
    w.hasSeq (seqField c) = true ∧ w.hasSeq (dstField c) = true := by
  obtain ⟨-, hunused⟩ := (selects_iff_bits row c).mp hc
  cases hw : w.nbuf with
  | one =>
    have hzero : ∀ lo, 49 ≤ lo → lo < 56 → flagAt c lo = false := fun lo hlo hlt =>
      Bool.eq_false_iff.mpr fun hbit => absurd (usedBit_lt_of_one hw lo row h (hunused lo hlt hbit)) (Nat.not_lt.mpr hlo)
    simp [seqField, dstField, hzero, SeqId.ofBit, Widths.hasSeq, Widths.seqCount, SeqId.number, hw]
  | two =>
    have hall : ∀ q, w.hasSeq q = true := fun q => by cases q <;> simp [Widths.hasSeq, Widths.seqCount, SeqId.number, hw]
    exact ⟨hall _, hall _⟩

/-- Every operand that names no sequence is a field read at its own width (30_encoding.md R79). -/
theorem wellFormed_of_hasSeq {w : Widths} {c : Word} (hseq : w.hasSeq (seqField c) = true)
    (hdst : w.hasSeq (dstField c) = true) : ∀ row ∈ opcodeTable w, (row.operands c).wellFormed w = true := by
  simp [opcodeTable, blockRows, sequenceRows, mediumRows, Instr.wellFormed, hseq, hdst]

/-- A row extracts a well-formed command from a word that selects it (30_encoding.md R81, R83). -/
theorem wellFormed_operands {w : Widths} {row : OpRow} {c : Word} (h : row ∈ opcodeTable w) (hc : Selects row c) :
    (row.operands c).wellFormed w = true := by
  obtain ⟨hseq, hdst⟩ := hasSeq_of_selects h hc
  exact wellFormed_of_hasSeq hseq hdst row h

/-- Settles O2: the word and the word of its command select one row with the same operands. -/
theorem encodeDecodeRoundTrip : Obligations.EncodeDecodeRoundTrip := by
  intro w c i hdecode
  obtain ⟨row, hmem, hc, rfl⟩ := (decode_eq_ok_iff w c i).mp hdecode
  have hwf := wellFormed_operands hmem hc
  obtain ⟨row', hmem', hv, hoperands⟩ := (decode_eq_ok_iff w _ _).mp (decodeEncodeRoundTrip w _ hwf)
  have hname : row'.mnemonic = row.mnemonic := by
    rw [← mnemonic_operands hmem', hoperands, mnemonic_operands hmem]
  obtain rfl := row_eq_of_mnemonic hmem' hmem hname
  exact ⟨hwf, hv.eq_of_agreeOn hc (opcodeTable_readUsedBits hmem _ _ hoperands)⟩

end Sys2Proof.Laws
end

section
/-! PROOFS. Words of every family (95_test_vectors.md). -/

namespace Sys2Proof.Laws

/-- The word of a well-formed command, given as a literal. -/
theorem decode_of_encode_eq {w : Widths} {c : Word} (i : Instr) (hwf : i.wellFormed w = true) (hword : encode w i = c) :
    decode w c = .ok i :=
  hword ▸ decodeEncodeRoundTrip w i hwf

/-- Settles O4: each word is the word of its command. -/
theorem decodeReadsTableWords : Obligations.DecodeReadsTableWords :=
  ⟨decode_of_encode_eq (.cfgDim 160 8) rfl rfl, decode_of_encode_eq (.blkLoad 16 8) rfl rfl,
    decode_of_encode_eq (.elig 8 2) rfl rfl, decode_of_encode_eq (.bbSetr .s0 4 6) rfl rfl,
    decode_of_encode_eq (.bbAppall .s1 .s0) rfl rfl, decode_of_encode_eq (.hamGetb .s1 1) rfl rfl,
    decode_of_encode_eq (.scanWrbit true) rfl rfl, decode_of_encode_eq (.frmCap (-14)) rfl rfl⟩

end Sys2Proof.Laws
end

section
/-! PROOFS. A step that runs a command (60_exceptions.md R243). -/

namespace Sys2Proof.Machine

/-- A word that decodes runs its command (30_encoding.md R78). -/
theorem performWord_of_decode {s : State} {c : Word} {i : Instr} (h : decode s.widths c = .ok i) :
    performWord c s = exec i s := by
  simp only [performWord, h]

/-- Settles O5: counting the word and answering the write leave the widths it decodes with. -/
theorem stepRunsDecodedCommand : Obligations.StepRunsDecodedCommand := by
  intro s c ms i hpending hdecode
  have hwidths : (s.setPending ms).beginCommand.widths = s.widths := rfl
  rw [step_of_move hpending]
  exact (performMove_cmd c _).trans (performWord_of_decode (hwidths ▸ hdecode))

end Sys2Proof.Machine
end

section
/-! PROOFS. The data of a number format (00_scope.md R8): the bits below the sign, what they say, and the sign put on them. -/

namespace Sys2Proof

/-! The sizes of the fields. -/

theorem NumFormat.signAt_eq (f : NumFormat) : f.signAt = f.fracBits + f.expBits := by cases f <;> rfl

theorem NumFormat.two_pow_expBits (f : NumFormat) : 2 ^ f.expBits = f.expMax + 1 := by cases f <;> rfl

theorem NumFormat.signAt_lt (f : NumFormat) : f.signAt < 64 := by cases f <;> decide

theorem NumFormat.fracBits_pos (f : NumFormat) : 0 < f.fracBits := by cases f <;> decide

theorem NumFormat.two_le_expMax (f : NumFormat) : 2 ≤ f.expMax := by cases f <;> decide

namespace Machine

/-- The bits of a number below its sign: the exponent field and the fraction (00_scope.md R8). -/
def magBits (f : NumFormat) (v : Word) : Nat := v.toNat % 2 ^ f.signAt

theorem two_pow_signAt (f : NumFormat) : 2 ^ f.signAt = infMagnitude f + 2 ^ f.fracBits := by
  rw [f.signAt_eq, Nat.pow_add, f.two_pow_expBits, infMagnitude]
  ring

theorem infMagnitude_lt (f : NumFormat) : infMagnitude f < 2 ^ f.signAt := by
  have := Nat.two_pow_pos f.fracBits
  rw [two_pow_signAt]
  omega

theorem infMagnitude_pos (f : NumFormat) : 0 < infMagnitude f :=
  Nat.mul_pos (by have := f.two_le_expMax; omega) (Nat.two_pow_pos _)

theorem expField_eq (f : NumFormat) (v : Word) : expField f v = magBits f v / 2 ^ f.fracBits := by
  rw [expField, magBits, f.signAt_eq, Nat.pow_add, Nat.mod_mul_right_div_self]

theorem fracField_eq (f : NumFormat) (v : Word) : fracField f v = magBits f v % 2 ^ f.fracBits := by
  rw [fracField, magBits, f.signAt_eq, Nat.pow_add, Nat.mod_mul_right_mod]

/-- The exponent field and the fraction make up the bits below the sign. -/
theorem magBits_eq (f : NumFormat) (v : Word) : magBits f v = expField f v * 2 ^ f.fracBits + fracField f v := by
  rw [expField_eq, fracField_eq, Nat.div_add_mod']

theorem expField_le (f : NumFormat) (v : Word) : expField f v ≤ f.expMax := by
  have h : expField f v < 2 ^ f.expBits := Nat.mod_lt _ (Nat.two_pow_pos _)
  rw [f.two_pow_expBits] at h
  omega

/-! Below the pattern of the infinity stand the finite numbers, above it the NaNs. -/

theorem isFinite_iff (f : NumFormat) (v : Word) : isFinite f v ↔ magBits f v < infMagnitude f := by
  have hle := expField_le f v
  rw [isFinite, infMagnitude, ← Nat.div_lt_iff_lt_mul (Nat.two_pow_pos _), ← expField_eq]
  omega

theorem expField_eq_expMax_iff (f : NumFormat) (v : Word) : expField f v = f.expMax ↔ infMagnitude f ≤ magBits f v := by
  rw [← not_iff_not, Nat.not_le, ← isFinite_iff, isFinite]

theorem isInf_iff (f : NumFormat) (v : Word) : isInf f v = true ↔ magBits f v = infMagnitude f := by
  have hbits := magBits_eq f v
  simp only [isInf, Bool.and_eq_true, beq_iff_eq]
  constructor
  · rintro ⟨hexp, hfrac⟩
    rw [hbits, hexp, hfrac, infMagnitude, Nat.add_zero]
  · intro h
    have hexp := (expField_eq_expMax_iff f v).mpr h.ge
    rw [hexp, ← infMagnitude] at hbits
    exact ⟨hexp, by omega⟩

theorem isNaN_iff (f : NumFormat) (v : Word) : isNaN f v = true ↔ infMagnitude f < magBits f v := by
  have hbits := magBits_eq f v
  simp only [isNaN, Bool.and_eq_true, beq_iff_eq, bne_iff_ne]
  constructor
  · rintro ⟨hexp, hfrac⟩
    rw [hbits, hexp, ← infMagnitude]
    omega
  · intro h
    have hexp := (expField_eq_expMax_iff f v).mpr h.le
    rw [hexp, ← infMagnitude] at hbits
    exact ⟨hexp, by omega⟩

theorem not_isNaN_of_isFinite {f : NumFormat} {v : Word} (h : isFinite f v) : isNaN f v = false := by
  rw [isFinite_iff] at h
  rw [← Bool.not_eq_true, isNaN_iff]
  omega

theorem not_isInf_of_isFinite {f : NumFormat} {v : Word} (h : isFinite f v) : isInf f v = false := by
  rw [isFinite_iff] at h
  rw [← Bool.not_eq_true, isInf_iff]
  omega

theorem not_isNaN_of_isInf {f : NumFormat} {v : Word} (h : isInf f v = true) : isNaN f v = false := by
  rw [isInf_iff] at h
  rw [← Bool.not_eq_true, isNaN_iff]
  omega

/-! A number put together from its sign and the bits below it. -/

theorem toNat_withSign (f : NumFormat) (s : Bool) {m : Nat} (hm : m < 2 ^ f.signAt) :
    (withSign f s m).toNat = 2 ^ f.signAt * s.toNat + m := by
  have hword : 2 ^ f.signAt * 2 ≤ 2 ^ 64 := by
    rw [← Nat.pow_succ]
    exact Nat.pow_le_pow_right (by decide) f.signAt_lt
  have hor : 2 ^ f.signAt + m = 2 ^ f.signAt ||| m := by simpa using Nat.two_pow_add_eq_or_of_lt hm 1
  cases s with
  | false =>
    rw [withSign, if_neg Bool.false_ne_true, BitVec.toNat_ofNat, Nat.mod_eq_of_lt (by omega)]
    simp
  | true =>
    rw [withSign, if_pos rfl, signBit, BitVec.or_comm, ← BitVec.ofNat_or, ← hor, BitVec.toNat_ofNat,
      Nat.mod_eq_of_lt (by omega)]
    simp

@[simp] theorem magBits_withSign (f : NumFormat) (s : Bool) {m : Nat} (hm : m < 2 ^ f.signAt) :
    magBits f (withSign f s m) = m := by
  rw [magBits, toNat_withSign f s hm, Nat.mul_add_mod, Nat.mod_eq_of_lt hm]

@[simp] theorem isNegative_withSign (f : NumFormat) (s : Bool) {m : Nat} (hm : m < 2 ^ f.signAt) :
    isNegative f (withSign f s m) = s := by
  rw [isNegative, BitVec.getLsbD, toNat_withSign f s hm, Nat.testBit_two_pow_mul_add _ hm]
  cases s <;> simp

/-- The infinity of a sign. -/
theorem isInf_withSign (f : NumFormat) (s : Bool) :
    isInf f (withSign f s (infMagnitude f)) = true ∧ isNegative f (withSign f s (infMagnitude f)) = s :=
  ⟨(isInf_iff f _).mpr (magBits_withSign f s (infMagnitude_lt f)), isNegative_withSign f s (infMagnitude_lt f)⟩

/-! The sign inverted. -/

@[simp] theorem magBits_fneg (f : NumFormat) (v : Word) : magBits f (fneg f v) = magBits f v := by
  have hbit : (signBit f).toNat % 2 ^ f.signAt = 0 := by
    rw [signBit, BitVec.toNat_ofNat, Nat.mod_mod_of_dvd _ (Nat.pow_dvd_pow 2 f.signAt_lt.le), Nat.mod_self]
  rw [magBits, fneg, BitVec.toNat_xor, Nat.xor_mod_two_pow, hbit, Nat.xor_zero, magBits]

@[simp] theorem isNegative_fneg (f : NumFormat) (v : Word) : isNegative f (fneg f v) = !isNegative f v := by
  have hbit : (signBit f).getLsbD f.signAt = true := by cases f <;> decide
  rw [isNegative, fneg, BitVec.getLsbD_xor, hbit, Bool.xor_true, isNegative]

@[simp] theorem isFinite_fneg (f : NumFormat) (v : Word) : isFinite f (fneg f v) ↔ isFinite f v := by
  simp only [isFinite_iff, magBits_fneg]

@[simp] theorem isInf_fneg (f : NumFormat) (v : Word) : isInf f (fneg f v) = isInf f v := by
  rw [Bool.eq_iff_iff, isInf_iff, isInf_iff, magBits_fneg]

@[simp] theorem isNaN_fneg (f : NumFormat) (v : Word) : isNaN f (fneg f v) = isNaN f v := by
  rw [Bool.eq_iff_iff, isNaN_iff, isNaN_iff, magBits_fneg]

@[simp] theorem units_fneg (f : NumFormat) (v : Word) : units f (fneg f v) = units f v := by
  simp only [units, expField_eq, fracField_eq, magBits_fneg]

@[simp] theorem signedUnits_fneg (f : NumFormat) (v : Word) : signedUnits f (fneg f v) = -signedUnits f v := by
  cases hs : isNegative f v <;> simp [signedUnits, hs]

end Machine

end Sys2Proof
end

section
/-! PROOFS. The finite numbers in order (40_block_transform.md R101): the units of a pattern rise with it, so the two patterns
around an exact result are the two finite numbers around it. -/

namespace Sys2Proof.Machine

/-- The units of the number whose bits below the sign are `m`. The patterns from the infinity on go on with the next steps of
the same ladder, which is where an exact result that is too large falls. -/
def patternUnits (f : NumFormat) (m : Nat) : Nat :=
  if m / 2 ^ f.fracBits = 0 then m % 2 ^ f.fracBits
  else (2 ^ f.fracBits + m % 2 ^ f.fracBits) * 2 ^ (m / 2 ^ f.fracBits - 1)

theorem units_eq (f : NumFormat) (v : Word) : units f v = patternUnits f (magBits f v) := by
  simp only [units, patternUnits, expField_eq, fracField_eq]

/-- `q` is a significand of the step `2^e`, or the power of two next above: it has the hidden bit, unless the step is the least
(subnormals). -/
def IsSignificand (f : NumFormat) (e q : Nat) : Prop := (e = 0 ∨ 2 ^ f.fracBits ≤ q) ∧ q ≤ 2 * 2 ^ f.fracBits

theorem IsSignificand.succ {f : NumFormat} {e q : Nat} (h : IsSignificand f e q) (htop : q + 1 ≤ 2 * 2 ^ f.fracBits) :
    IsSignificand f e (q + 1) :=
  ⟨h.1.imp_right Nat.le_succ_of_le, htop⟩

/-- A significand that reaches the next power of two carries into the exponent field by itself. -/
theorem patternUnits_of_isSignificand {f : NumFormat} {e q : Nat} (h : IsSignificand f e q) :
    patternUnits f (e * 2 ^ f.fracBits + q) = q * 2 ^ e := by
  have hpos := Nat.two_pow_pos f.fracBits
  have hfields : ∀ k g, g < 2 ^ f.fracBits →
      (k * 2 ^ f.fracBits + g) / 2 ^ f.fracBits = k ∧ (k * 2 ^ f.fracBits + g) % 2 ^ f.fracBits = g := fun k g hg => by
    rw [Nat.mul_comm, Nat.mul_add_div hpos, Nat.mul_add_mod, Nat.div_eq_of_lt hg, Nat.mod_eq_of_lt hg]
    exact ⟨rfl, rfl⟩
  obtain ⟨hhidden, htop⟩ := h
  rcases Nat.lt_or_ge q (2 ^ f.fracBits) with hsub | hnorm
  · obtain rfl : e = 0 := by omega
    obtain ⟨hexp, hfrac⟩ := hfields 0 q hsub
    rw [patternUnits, if_pos hexp, hfrac, Nat.pow_zero, Nat.mul_one]
  · rcases Nat.lt_or_ge q (2 * 2 ^ f.fracBits) with hlt | hcarry
    · obtain ⟨g, rfl⟩ := Nat.exists_eq_add_of_le hnorm
      have hsplit : e * 2 ^ f.fracBits + (2 ^ f.fracBits + g) = (e + 1) * 2 ^ f.fracBits + g := by ring
      obtain ⟨hexp, hfrac⟩ := hfields (e + 1) g (by omega)
      rw [hsplit, patternUnits, hexp, hfrac, if_neg (Nat.succ_ne_zero e), Nat.add_sub_cancel]
    · obtain rfl : q = 2 * 2 ^ f.fracBits := by omega
      have hsplit : e * 2 ^ f.fracBits + 2 * 2 ^ f.fracBits = (e + 2) * 2 ^ f.fracBits + 0 := by ring
      obtain ⟨hexp, hfrac⟩ := hfields (e + 2) 0 hpos
      rw [hsplit, patternUnits, hexp, hfrac, if_neg (Nat.succ_ne_zero _), Nat.add_zero]
      exact (by ring : 2 ^ f.fracBits * 2 ^ (e + 1) = 2 * 2 ^ f.fracBits * 2 ^ e)

/-- Every pattern is a step and a significand below the next power of two. -/
theorem exists_isSignificand (f : NumFormat) (m : Nat) :
    ∃ e q, m = e * 2 ^ f.fracBits + q ∧ IsSignificand f e q ∧ q + 1 ≤ 2 * 2 ^ f.fracBits := by
  have hdiv := Nat.div_add_mod' m (2 ^ f.fracBits)
  have hmod := Nat.mod_lt m (Nat.two_pow_pos f.fracBits)
  cases hexp : m / 2 ^ f.fracBits with
  | zero =>
    rw [hexp] at hdiv
    exact ⟨0, m, by omega, ⟨.inl rfl, by omega⟩, by omega⟩
  | succ e =>
    rw [hexp, Nat.add_mul] at hdiv
    exact ⟨e, 2 ^ f.fracBits + m % 2 ^ f.fracBits, by omega, ⟨.inr (by omega), by omega⟩, by omega⟩

theorem patternUnits_strictMono (f : NumFormat) : StrictMono (patternUnits f) := by
  refine strictMono_nat_of_lt_succ fun m => ?_
  obtain ⟨e, q, rfl, hq, htop⟩ := exists_isSignificand f m
  rw [Nat.add_assoc, patternUnits_of_isSignificand hq, patternUnits_of_isSignificand (hq.succ htop)]
  exact Nat.mul_lt_mul_of_pos_right (Nat.lt_succ_self q) (Nat.two_pow_pos e)

@[simp] theorem patternUnits_zero (f : NumFormat) : patternUnits f 0 = 0 := by
  simp [patternUnits]

/-- The step at which the infinity's pattern continues the finite numbers. -/
theorem infMagnitude_eq (f : NumFormat) : infMagnitude f = (f.expMax - 2) * 2 ^ f.fracBits + 2 * 2 ^ f.fracBits := by
  rw [← Nat.add_mul, Nat.sub_add_cancel f.two_le_expMax, infMagnitude]

theorem patternUnits_infMagnitude (f : NumFormat) :
    patternUnits f (infMagnitude f) = 2 * 2 ^ f.fracBits * 2 ^ (f.expMax - 2) := by
  rw [infMagnitude_eq, patternUnits_of_isSignificand ⟨.inr (by omega), le_rfl⟩]

/-- `overflowTwice` is twice the middle between the greatest finite number and the step that would follow it. -/
theorem overflowTwice_eq (f : NumFormat) :
    overflowTwice f = patternUnits f (infMagnitude f - 1) + patternUnits f (infMagnitude f) := by
  have hpos := Nat.two_pow_pos f.fracBits
  have hmax : infMagnitude f - 1 = (f.expMax - 2) * 2 ^ f.fracBits + (2 * 2 ^ f.fracBits - 1) := by
    rw [infMagnitude_eq, Nat.add_sub_assoc (by omega)]
  rw [patternUnits_infMagnitude, hmax, patternUnits_of_isSignificand ⟨.inr (by omega), by omega⟩, ← Nat.add_mul,
    overflowTwice, Nat.pow_add]
  congr 1
  omega

theorem overflowTwice_pos (f : NumFormat) : 0 < overflowTwice f := by
  have hinf := patternUnits_strictMono f (infMagnitude_pos f)
  rw [overflowTwice_eq]
  omega

/-! Rounding. -/

/-- The step at which `n` units are represented gives them a significand (40_block_transform.md R101). -/
theorem isSignificand_quantumExp (f : NumFormat) (n : Nat) :
    IsSignificand f (quantumExp f n) (n / 2 ^ quantumExp f n) ∧ n / 2 ^ quantumExp f n + 1 ≤ 2 * 2 ^ f.fracBits := by
  have htwo : 2 ^ (f.fracBits + 1) = 2 * 2 ^ f.fracBits := by rw [Nat.pow_succ, Nat.mul_comm]
  rw [quantumExp]
  split
  · rw [Nat.pow_zero, Nat.div_one]
    exact ⟨⟨.inl rfl, by omega⟩, by omega⟩
  · rename_i hlarge
    have hn : n ≠ 0 := by have := Nat.two_pow_pos (f.fracBits + 1); omega
    have hlog : f.fracBits + 1 ≤ n.log2 := (Nat.le_log2 hn).mpr (by omega)
    have hlo : 2 ^ f.fracBits ≤ n / 2 ^ (n.log2 - f.fracBits) := by
      rw [Nat.le_div_iff_mul_le (Nat.two_pow_pos _), ← Nat.pow_add, Nat.add_sub_cancel' (by omega)]
      exact Nat.log2_self_le hn
    have hhi : n / 2 ^ (n.log2 - f.fracBits) < 2 * 2 ^ f.fracBits := by
      rw [Nat.div_lt_iff_lt_mul (Nat.two_pow_pos _), ← htwo, ← Nat.pow_add,
        (by omega : f.fracBits + 1 + (n.log2 - f.fracBits) = n.log2 + 1)]
      exact Nat.lt_log2_self
    exact ⟨⟨.inr hlo, by omega⟩, by omega⟩

/-- The pattern of `num / den` units rounded, before the overflow to the infinity (40_block_transform.md R101). -/
def roundPattern (f : NumFormat) (num den : Nat) : Nat :=
  quantumExp f (num / den) * 2 ^ f.fracBits + roundHalfEven num (den * 2 ^ quantumExp f (num / den))

theorem roundUnits_eq (f : NumFormat) (num den : Nat) :
    roundUnits f num den = min (roundPattern f num den) (infMagnitude f) := rfl

/-- How far the pattern `m` is from `num / den` units, in units of `1 / den`. -/
def patternGap (f : NumFormat) (num den m : Nat) : Nat := ((patternUnits f m * den : Nat) - (num : Int)).natAbs

/-- EVERYTHING ROUNDING TO AN INTEGER CAN DO: down from below the middle, up from above it, to even in the middle
(40_block_transform.md R101). -/
theorem roundHalfEven_cases (num den : Nat) :
    (roundHalfEven num den = num / den ∧ 2 * (num % den) ≤ den ∧ (2 * (num % den) = den → num / den % 2 = 0)) ∨
    (roundHalfEven num den = num / den + 1 ∧ den ≤ 2 * (num % den) ∧ (2 * (num % den) = den → num / den % 2 = 1)) := by
  simp only [roundHalfEven]
  split
  · exact .inr ⟨rfl, by omega, by omega⟩
  · exact .inl ⟨rfl, by omega, by omega⟩

/-- Where a place stands to two neighbouring ones, its value stands to theirs. -/
theorem strictMono_place {g : Nat → Nat} (hg : StrictMono g) (lo m : Nat) :
    (m < lo ∧ g m < g lo) ∨ (m = lo ∧ g m = g lo) ∨ (m = lo + 1 ∧ g m = g (lo + 1)) ∨
      (lo + 1 < m ∧ g (lo + 1) < g m) := by
  rcases lt_trichotomy m lo with hlt | rfl | hgt
  · exact .inl ⟨hlt, hg hlt⟩
  · exact .inr (.inl ⟨rfl, rfl⟩)
  · rcases Nat.eq_or_lt_of_le hgt with rfl | hlt
    · exact .inr (.inr (.inl ⟨rfl, rfl⟩))
    · exact .inr (.inr (.inr ⟨hlt, hg hlt⟩))

/-- No pattern is nearer to `num / den` units than `roundPattern`, and where another is equally near it is even. -/
theorem roundPattern_nearest (f : NumFormat) (num : Nat) {den : Nat} (hden : 0 < den) (m : Nat) :
    patternGap f num den (roundPattern f num den) ≤ patternGap f num den m ∧
    (patternGap f num den (roundPattern f num den) = patternGap f num den m → m ≠ roundPattern f num den →
      roundPattern f num den % 2 = 0) := by
  obtain ⟨hsig, htop⟩ := isSignificand_quantumExp f (num / den)
  rw [roundPattern]
  generalize quantumExp f (num / den) = e at *
  rw [Nat.div_div_eq_div_mul] at hsig htop
  have hrem := Nat.mod_lt num (Nat.mul_pos hden (Nat.two_pow_pos e))
  have hnum := Nat.div_add_mod' num (den * 2 ^ e)
  have hround := roundHalfEven_cases num (den * 2 ^ e)
  generalize num / (den * 2 ^ e) = q at *
  generalize num % (den * 2 ^ e) = rem at *
  have hbelow : patternUnits f (e * 2 ^ f.fracBits + q) * den = q * (den * 2 ^ e) := by
    rw [patternUnits_of_isSignificand hsig]
    ring
  have habove : patternUnits f (e * 2 ^ f.fracBits + q + 1) * den = q * (den * 2 ^ e) + den * 2 ^ e := by
    rw [Nat.add_assoc, patternUnits_of_isSignificand (hsig.succ htop)]
    ring
  have hparity : (e * 2 ^ f.fracBits + q) % 2 = q % 2 := by
    obtain ⟨k, hk⟩ : 2 ∣ e * 2 ^ f.fracBits := (dvd_pow_self 2 f.fracBits_pos.ne').mul_left e
    omega
  have hplace := strictMono_place ((patternUnits_strictMono f).mul_const hden) (e * 2 ^ f.fracBits + q) m
  rw [hbelow, habove] at hplace
  simp only [patternGap]
  rcases hround with ⟨hdown, hhalf, heven⟩ | ⟨hup, hhalf, hodd⟩
  · rw [hdown, hbelow]
    omega
  · rw [hup, ← Nat.add_assoc, habove]
    omega

/-- What is rounded overflows from the middle between the greatest finite number and the next step on: that middle is a tie, and
the pattern below it is odd (40_block_transform.md R101). -/
theorem infMagnitude_le_roundPattern_iff (f : NumFormat) (num : Nat) {den : Nat} (hden : 0 < den) :
    infMagnitude f ≤ roundPattern f num den ↔ overflowTwice f * den ≤ 2 * num := by
  have hmono : ∀ {k l}, k ≤ l → patternUnits f k * den ≤ patternUnits f l * den := fun h =>
    Nat.mul_le_mul_right den ((patternUnits_strictMono f).monotone h)
  have heven : infMagnitude f % 2 = 0 :=
    Nat.mod_eq_zero_of_dvd ((dvd_pow_self 2 f.fracBits_pos.ne').mul_left f.expMax)
  have hpos := infMagnitude_pos f
  have hstep : patternUnits f (infMagnitude f - 1) * den < patternUnits f (infMagnitude f) * den :=
    Nat.mul_lt_mul_of_pos_right (patternUnits_strictMono f (by omega)) hden
  have hmax := roundPattern_nearest f num hden (infMagnitude f - 1)
  have hinf := roundPattern_nearest f num hden (infMagnitude f)
  rw [overflowTwice_eq, Nat.add_mul]
  simp only [patternGap] at hmax hinf
  constructor
  · intro hle
    have := hmono hle
    omega
  · intro hover
    by_contra hlt
    rcases Nat.eq_or_lt_of_le (show roundPattern f num den ≤ infMagnitude f - 1 by omega) with heq | hless
    · rw [heq] at hinf
      omega
    · have := hmono hless.le
      have : patternUnits f (roundPattern f num den) * den < patternUnits f (infMagnitude f - 1) * den :=
        Nat.mul_lt_mul_of_pos_right (patternUnits_strictMono f hless) hden
      omega

theorem roundUnits_of_overflow {f : NumFormat} {num den : Nat} (hden : 0 < den)
    (h : overflowTwice f * den ≤ 2 * num) : roundUnits f num den = infMagnitude f := by
  rw [roundUnits_eq, Nat.min_eq_right ((infMagnitude_le_roundPattern_iff f num hden).mpr h)]

theorem roundUnits_of_lt {f : NumFormat} {num den : Nat} (hden : 0 < den) (h : 2 * num < overflowTwice f * den) :
    roundUnits f num den = roundPattern f num den ∧ roundPattern f num den < infMagnitude f := by
  have hlt : roundPattern f num den < infMagnitude f := by
    rw [← Nat.not_le, infMagnitude_le_roundPattern_iff f num hden]
    omega
  rw [roundUnits_eq, Nat.min_eq_left hlt.le]
  exact ⟨rfl, hlt⟩

theorem roundUnits_le (f : NumFormat) (num den : Nat) : roundUnits f num den ≤ infMagnitude f := Nat.min_le_right _ _

theorem roundUnits_lt (f : NumFormat) (num den : Nat) : roundUnits f num den < 2 ^ f.signAt :=
  (roundUnits_le f num den).trans_lt (infMagnitude_lt f)

/-- A pattern up to the infinity's is no NaN. -/
theorem isNaN_withSign {f : NumFormat} (s : Bool) {m : Nat} (hm : m ≤ infMagnitude f) :
    isNaN f (withSign f s m) = false := by
  rw [← Bool.not_eq_true, isNaN_iff, magBits_withSign f s (hm.trans_lt (infMagnitude_lt f))]
  omega

theorem isNaN_roundUnits (f : NumFormat) (s : Bool) (num den : Nat) :
    isNaN f (withSign f s (roundUnits f num den)) = false := isNaN_withSign s (roundUnits_le f num den)

/-- A finite number is not rounded: it is at no distance from itself. -/
theorem roundUnits_patternUnits {f : NumFormat} {m : Nat} (hm : m < infMagnitude f) :
    roundUnits f (patternUnits f m) 1 = m := by
  have hmax : patternUnits f m ≤ patternUnits f (infMagnitude f - 1) :=
    (patternUnits_strictMono f).monotone (by omega)
  have hstep : patternUnits f (infMagnitude f - 1) < patternUnits f (infMagnitude f) :=
    patternUnits_strictMono f (by omega)
  have hover := overflowTwice_eq f
  have hnear := (roundPattern_nearest f (patternUnits f m) Nat.one_pos m).1
  rw [(roundUnits_of_lt Nat.one_pos (by omega)).1]
  apply (patternUnits_strictMono f).injective
  simp only [patternGap] at hnear
  omega

@[simp] theorem roundUnits_zero (f : NumFormat) (den : Nat) : roundUnits f 0 den = 0 := by
  simp [roundUnits, quantumExp, roundHalfEven]

/-- Every integer that a significand holds is the units of a number, at any step (00_scope.md R8). -/
theorem exists_patternUnits (f : NumFormat) (k : Nat) {n : Nat} (hn : n ≤ 2 * 2 ^ f.fracBits) :
    ∃ m, patternUnits f m = n * 2 ^ k := by
  induction k generalizing n with
  | zero => exact ⟨_, patternUnits_of_isSignificand ⟨.inl rfl, hn⟩⟩
  | succ k ih =>
    rcases Nat.lt_or_ge n (2 ^ f.fracBits) with hsub | hnorm
    · obtain ⟨m, hm⟩ := ih (n := 2 * n) (by omega)
      exact ⟨m, by rw [hm]; ring⟩
    · exact ⟨_, patternUnits_of_isSignificand ⟨.inr hnorm, hn⟩⟩

/-! The exact result with its sign. -/

theorem signedUnits_eq (f : NumFormat) (v : Word) :
    signedUnits f v =
      if isNegative f v then -(patternUnits f (magBits f v) : Int) else (patternUnits f (magBits f v) : Int) := by
  rw [signedUnits, units_eq]

/-- From a number of its own sign an exact result is as far as in magnitude. -/
theorem gap_of_same_sign {f : NumFormat} {n : Int} {w : Word} (den : Nat)
    (hn : if isNegative f w then n ≤ 0 else 0 ≤ n) :
    (signedUnits f w * den - n).natAbs = patternGap f n.natAbs den (magBits f w) := by
  rw [signedUnits_eq, patternGap]
  split at hn
  · rename_i hs
    rw [if_pos hs, Int.neg_mul, ← Nat.cast_mul]
    omega
  · rename_i hs
    rw [if_neg hs, ← Nat.cast_mul]
    omega

/-- From a number of the other sign it is as far as both magnitudes together. -/
theorem gap_of_other_sign {f : NumFormat} {n : Int} {w : Word} (den : Nat)
    (hn : if isNegative f w then 0 ≤ n else n ≤ 0) :
    (signedUnits f w * den - n).natAbs = patternUnits f (magBits f w) * den + n.natAbs := by
  rw [signedUnits_eq]
  split at hn
  · rename_i hs
    rw [if_pos hs, Int.neg_mul, ← Nat.cast_mul]
    omega
  · rename_i hs
    rw [if_neg hs, ← Nat.cast_mul]
    omega

/-- ROUNDING IS RIGHT (40_block_transform.md R101): the rounded magnitude under the sign of the exact result is the number
`RoundsTo` asks for; a result of zero may carry either sign. -/
theorem roundsTo_withSign {f : NumFormat} {n : Int} {s : Bool} {den : Nat} (hden : 0 < den)
    (hs : if s then n ≤ 0 else 0 ≤ n) : RoundsTo f n den (withSign f s (roundUnits f n.natAbs den)) := by
  have hbits := magBits_withSign f s (roundUnits_lt f n.natAbs den)
  have hsign := isNegative_withSign f s (roundUnits_lt f n.natAbs den)
  generalize withSign f s (roundUnits f n.natAbs den) = v at hbits hsign
  refine ⟨fun hover => ?_, fun hlt => ?_⟩
  · rw [roundUnits_of_overflow hden hover] at hbits
    have hpos : 0 < overflowTwice f * den := Nat.mul_pos (overflowTwice_pos f) hden
    refine ⟨(isInf_iff f v).mpr hbits, ?_⟩
    rw [hsign]
    cases s
    · exact (decide_eq_false (Int.not_lt.mpr hs)).symm
    · exact (decide_eq_true (lt_of_le_of_ne hs (by omega))).symm
  · obtain ⟨hround, hfinite⟩ := roundUnits_of_lt hden hlt
    rw [hround] at hbits
    refine ⟨(isFinite_iff f v).mpr (by omega), fun w _ => ?_⟩
    have hparity : fracField f v % 2 = roundPattern f n.natAbs den % 2 := by
      rw [fracField_eq, hbits, Nat.mod_mod_of_dvd _ (dvd_pow_self 2 f.fracBits_pos.ne')]
    have hgap := gap_of_same_sign (w := v) den (hsign.symm ▸ hs)
    rw [hbits] at hgap
    rw [hparity, hgap]
    by_cases hsame : isNegative f w = s
    · obtain ⟨hnear, htie⟩ := roundPattern_nearest f n.natAbs hden (magBits f w)
      rw [gap_of_same_sign (w := w) den (hsame.symm ▸ hs)]
      refine ⟨hnear, fun heq hne => htie heq fun hmag => hne ?_⟩
      rw [signedUnits_eq, signedUnits_eq, hsame, hsign, hmag, hbits]
    · obtain ⟨hnear, htie⟩ := roundPattern_nearest f n.natAbs hden 0
      have hzero : patternGap f n.natAbs den 0 = n.natAbs := by
        simp only [patternGap, patternUnits_zero, Nat.zero_mul]
        omega
      rw [gap_of_other_sign (w := w) den (by rw [Bool.eq_not_of_ne hsame]; cases s <;> exact hs)]
      rw [hzero] at hnear htie
      refine ⟨by omega, fun heq hne => htie (by omega) fun hmag => hne ?_⟩
      have hw : patternUnits f (magBits f w) = 0 := (Nat.mul_eq_zero.mp (by omega)).resolve_right hden.ne'
      rw [signedUnits_eq, signedUnits_eq, hw, hbits, ← hmag, patternUnits_zero]
      simp
end Sys2Proof.Machine
end

section
/-! PROOFS. What each operation does, by the kinds of its operands (40_block_transform.md R101, R102; log 9). -/

namespace Sys2Proof.Machine

variable {f : NumFormat} {a b : Word}

/-! A NaN operand. -/

theorem fadd_nan (h : isNaN f a = true ∨ isNaN f b = true) : fadd f a b = canonicalNaN f := by
  rw [fadd, if_pos (by simpa using h)]

theorem fsub_nan (h : isNaN f a = true ∨ isNaN f b = true) : fsub f a b = canonicalNaN f :=
  fadd_nan (by rwa [isNaN_fneg])

theorem fmul_nan (h : isNaN f a = true ∨ isNaN f b = true) : fmul f a b = canonicalNaN f := by
  simp only [fmul, if_pos (show (isNaN f a || isNaN f b) = true by simpa using h)]

theorem fdiv_nan (h : isNaN f a = true ∨ isNaN f b = true) : fdiv f a b = canonicalNaN f := by
  simp only [fdiv, if_pos (show (isNaN f a || isNaN f b) = true by simpa using h)]

/-! A result is the canonical NaN or no NaN. -/

theorem fadd_canonical (f : NumFormat) (a b : Word) : fadd f a b = canonicalNaN f ∨ isNaN f (fadd f a b) = false := by
  unfold fadd
  split
  · exact .inl rfl
  split
  · split
    · exact .inl rfl
    · exact .inr (isNaN_withSign _ le_rfl)
  split
  · exact .inr (isNaN_withSign _ le_rfl)
  · dsimp only
    split
    · exact .inr (isNaN_withSign _ (Nat.zero_le _))
    · exact .inr (isNaN_roundUnits f _ _ _)

theorem fsub_canonical (f : NumFormat) (a b : Word) : fsub f a b = canonicalNaN f ∨ isNaN f (fsub f a b) = false :=
  fadd_canonical f a (fneg f b)

theorem fmul_canonical (f : NumFormat) (a b : Word) : fmul f a b = canonicalNaN f ∨ isNaN f (fmul f a b) = false := by
  unfold fmul
  dsimp only
  split
  · exact .inl rfl
  split
  · split
    · exact .inl rfl
    · exact .inr (isNaN_withSign _ le_rfl)
  · exact .inr (isNaN_roundUnits f _ _ _)

theorem fdiv_canonical (f : NumFormat) (a b : Word) : fdiv f a b = canonicalNaN f ∨ isNaN f (fdiv f a b) = false := by
  unfold fdiv
  dsimp only
  split
  · exact .inl rfl
  split
  · split
    · exact .inl rfl
    · exact .inr (isNaN_withSign _ le_rfl)
  split
  · exact .inr (isNaN_withSign _ (Nat.zero_le _))
  split
  · split
    · exact .inl rfl
    · exact .inr (isNaN_withSign _ le_rfl)
  · exact .inr (isNaN_roundUnits f _ _ _)

/-! An infinite operand. -/

theorem fadd_comm (f : NumFormat) (a b : Word) : fadd f a b = fadd f b a := by
  unfold fadd
  simp only [Bool.or_comm (isNaN f b), Bool.and_comm (isNegative f b), Int.add_comm (signedUnits f b),
    bne_comm (a := isNegative f b)]
  cases isInf f a with
  | false => simp
  | true =>
    cases isInf f b with
    | false => simp
    | true => by_cases hs : isNegative f a = isNegative f b <;> simp [hs]

theorem fadd_inf_opposite (ha : isInf f a = true) (hb : isInf f b = true) (hs : isNegative f a ≠ isNegative f b) :
    fadd f a b = canonicalNaN f := by
  simp [fadd, ha, hb, hs]

theorem fadd_inf (ha : isInf f a = true) (hb : isFinite f b ∨ isInf f b = true ∧ isNegative f b = isNegative f a) :
    fadd f a b = withSign f (isNegative f a) (infMagnitude f) := by
  rcases hb with hb | ⟨hb, hs⟩
  · simp [fadd, ha, not_isNaN_of_isInf ha, not_isNaN_of_isFinite hb, not_isInf_of_isFinite hb]
  · simp [fadd, ha, hb, hs, not_isNaN_of_isInf ha, not_isNaN_of_isInf hb]

theorem fsub_inf_same (ha : isInf f a = true) (hb : isInf f b = true) (hs : isNegative f a = isNegative f b) :
    fsub f a b = canonicalNaN f :=
  fadd_inf_opposite ha (by rwa [isInf_fneg]) (by rw [isNegative_fneg, hs]; exact Bool.self_ne_not _)

theorem fsub_inf (ha : isInf f a = true) (hb : isFinite f b ∨ isInf f b = true ∧ isNegative f b ≠ isNegative f a) :
    fsub f a b = withSign f (isNegative f a) (infMagnitude f) := by
  refine fadd_inf ha ?_
  rw [isFinite_fneg, isInf_fneg, isNegative_fneg]
  exact hb.imp_right (And.imp_right fun hs => by rw [Bool.eq_not_of_ne hs, Bool.not_not])

theorem fsub_of_inf (ha : isInf f a = true) (hb : isFinite f b ∨ isInf f b = true ∧ isNegative f b ≠ isNegative f a) :
    fsub f b a = withSign f (!isNegative f a) (infMagnitude f) := by
  rw [fsub, fadd_comm, fadd_inf (by rwa [isInf_fneg]), isNegative_fneg]
  rw [isNegative_fneg]
  exact hb.imp_right (And.imp_right Bool.eq_not_of_ne)

theorem fmul_comm (f : NumFormat) (a b : Word) : fmul f a b = fmul f b a := by
  simp only [fmul, Bool.or_comm (isNaN f b), Bool.or_comm (isInf f b), Nat.mul_comm (units f b),
    bne_comm (a := isNegative f b), Bool.or_comm (!isInf f b && units f b == 0)]

theorem fmul_inf_zero (ha : isInf f a = true) (hb : isFinite f b) (hzero : units f b = 0) :
    fmul f a b = canonicalNaN f := by
  simp [fmul, ha, hzero, not_isInf_of_isFinite hb]

theorem fmul_inf (ha : isInf f a = true) (hb : isFinite f b ∧ units f b ≠ 0 ∨ isInf f b = true) :
    fmul f a b = withSign f (isNegative f a ^^ isNegative f b) (infMagnitude f) := by
  rcases hb with ⟨hb, hzero⟩ | hb
  · simp [fmul, ha, hzero, not_isNaN_of_isInf ha, not_isNaN_of_isFinite hb, not_isInf_of_isFinite hb]
  · simp [fmul, ha, hb, not_isNaN_of_isInf ha, not_isNaN_of_isInf hb]

theorem fdiv_inf_inf (ha : isInf f a = true) (hb : isInf f b = true) : fdiv f a b = canonicalNaN f := by
  simp [fdiv, ha, hb]

theorem fdiv_inf_finite (ha : isInf f a = true) (hb : isFinite f b) :
    fdiv f a b = withSign f (isNegative f a ^^ isNegative f b) (infMagnitude f) := by
  simp [fdiv, ha, not_isNaN_of_isInf ha, not_isNaN_of_isFinite hb, not_isInf_of_isFinite hb]

theorem fdiv_finite_inf (ha : isFinite f a) (hb : isInf f b = true) :
    fdiv f a b = withSign f (isNegative f a ^^ isNegative f b) 0 := by
  simp [fdiv, hb, not_isNaN_of_isFinite ha, not_isNaN_of_isInf hb, not_isInf_of_isFinite ha]

/-! Finite operands. -/

theorem fadd_finite (ha : isFinite f a) (hb : isFinite f b) :
    fadd f a b =
      if signedUnits f a + signedUnits f b = 0 then withSign f (isNegative f a && isNegative f b) 0
      else roundSigned f (signedUnits f a + signedUnits f b) 1 := by
  simp [fadd, not_isNaN_of_isFinite, not_isInf_of_isFinite, ha, hb]

theorem fmul_finite (ha : isFinite f a) (hb : isFinite f b) :
    fmul f a b =
      withSign f (isNegative f a ^^ isNegative f b) (roundUnits f (units f a * units f b) (unitScale f)) := by
  simp [fmul, not_isNaN_of_isFinite, not_isInf_of_isFinite, ha, hb]

theorem fdiv_finite (ha : isFinite f a) (hb : isFinite f b) (hzero : units f b ≠ 0) :
    fdiv f a b =
      withSign f (isNegative f a ^^ isNegative f b) (roundUnits f (units f a * unitScale f) (units f b)) := by
  simp [fdiv, not_isNaN_of_isFinite, not_isInf_of_isFinite, ha, hb, hzero]

theorem fdiv_by_zero (ha : isFinite f a) (hb : isFinite f b) (hzero : units f b = 0) (hne : units f a ≠ 0) :
    fdiv f a b = withSign f (isNegative f a ^^ isNegative f b) (infMagnitude f) := by
  simp [fdiv, not_isNaN_of_isFinite, not_isInf_of_isFinite, ha, hb, hzero, hne]

theorem fdiv_zero_zero (ha : isFinite f a) (hb : isFinite f b) (hzero : units f a = 0) (hzero' : units f b = 0) :
    fdiv f a b = canonicalNaN f := by
  simp [fdiv, not_isNaN_of_isFinite, not_isInf_of_isFinite, ha, hb, hzero, hzero']

end Sys2Proof.Machine
end

section
/-! PROOFS. The results of the arithmetic (40_block_transform.md R101, R102). -/

namespace Sys2Proof.Machine

/-- The zero of a sign. -/
theorem isFinite_withSign_zero (f : NumFormat) (s : Bool) :
    isFinite f (withSign f s 0) ∧ units f (withSign f s 0) = 0 ∧ isNegative f (withSign f s 0) = s := by
  have hbits := magBits_withSign f s (Nat.two_pow_pos f.signAt)
  refine ⟨?_, ?_, isNegative_withSign f s (Nat.two_pow_pos _)⟩
  · rw [isFinite_iff, hbits]
    exact infMagnitude_pos f
  · rw [units_eq, hbits, patternUnits_zero]

/-- A result that is a NaN is the canonical one, where it is the canonical one or no NaN. -/
theorem eq_canonicalNaN {f : NumFormat} {v : Word} (h : v = canonicalNaN f ∨ isNaN f v = false)
    (hv : isNaN f v = true) : v = canonicalNaN f := h.resolve_right (by simp [hv])

/-- Settles O29: the operations by the kinds of their operands; sums and products commute. -/
theorem nanResultsAreCanonical : Obligations.NanResultsAreCanonical := by
  refine ⟨rfl, fun f a b => ⟨fun h => ⟨fadd_nan h, fsub_nan h, fmul_nan h, fdiv_nan h⟩,
    fadd_inf_opposite, fsub_inf_same,
    fun ha hzero hb => ⟨(fmul_comm f a b).trans (fmul_inf_zero hb ha hzero), fmul_inf_zero hb ha hzero⟩,
    fun ha hza hb hzb => fdiv_zero_zero ha hb hza hzb, fdiv_inf_inf, eq_canonicalNaN (fadd_canonical f a b),
    eq_canonicalNaN (fsub_canonical f a b), eq_canonicalNaN (fmul_canonical f a b), eq_canonicalNaN (fdiv_canonical f a b),
    fun ha hb => ?sum, fun ha hb => ?difference, fun ha hb => ?product, fun ha hb => ?quotient⟩⟩
  case sum =>
    rw [fadd_comm f b a, fadd_inf ha hb]
    exact ⟨isInf_withSign f _, isInf_withSign f _⟩
  case difference =>
    rw [fsub_inf ha hb, fsub_of_inf ha hb]
    exact ⟨isInf_withSign f _, isInf_withSign f _⟩
  case product =>
    rw [fmul_comm f b a, fmul_inf ha hb, Bool.xor_comm (isNegative f b)]
    exact ⟨isInf_withSign f _, isInf_withSign f _⟩
  case quotient =>
    rw [fdiv_inf_finite ha hb, fdiv_finite_inf hb ha]
    exact ⟨isInf_withSign f _, isFinite_withSign_zero f _⟩

/-! The exact results: their magnitudes and signs. -/

theorem natAbs_signedUnits (f : NumFormat) (v : Word) : (signedUnits f v).natAbs = units f v := by
  rw [signedUnits]
  split <;> simp

theorem signedUnits_sign (f : NumFormat) (v : Word) :
    if isNegative f v then signedUnits f v ≤ 0 else 0 ≤ signedUnits f v := by
  rw [signedUnits]
  split <;> omega

/-- The sign of a product is the exclusive-or of the signs of its factors. -/
theorem mul_sign {x y : Int} {s t : Bool} (hx : if s then x ≤ 0 else 0 ≤ x) (hy : if t then y ≤ 0 else 0 ≤ y) :
    if s ^^ t then x * y ≤ 0 else 0 ≤ x * y := by
  cases s <;> cases t
  · exact mul_nonneg hx hy
  · exact mul_nonpos_of_nonneg_of_nonpos hx hy
  · exact mul_nonpos_of_nonpos_of_nonneg hx hy
  · exact mul_nonneg_of_nonpos_of_nonpos hx hy

theorem unitScale_pos (f : NumFormat) : 0 < unitScale f := Nat.two_pow_pos _

/-- The units of 1 under the sign of the divisor `v`, by which a quotient is scaled. -/
def signedScale (f : NumFormat) (v : Word) : Int := if isNegative f v then -(unitScale f : Int) else (unitScale f : Int)

theorem mul_signedScale (f : NumFormat) (n : Int) (v : Word) :
    n * signedScale f v = if isNegative f v then -(n * (unitScale f : Int)) else n * (unitScale f : Int) := by
  rw [signedScale, mul_ite, mul_neg]

theorem natAbs_signedScale (f : NumFormat) (v : Word) : (signedScale f v).natAbs = unitScale f := by
  rw [signedScale]
  split <;> simp

theorem signedScale_sign (f : NumFormat) (v : Word) :
    if isNegative f v then signedScale f v ≤ 0 else 0 ≤ signedScale f v := by
  rw [signedScale]
  split <;> omega

/-- The exact sum rounded. -/
theorem roundsTo_fadd {f : NumFormat} {a b : Word} (ha : isFinite f a) (hb : isFinite f b) :
    RoundsTo f (signedUnits f a + signedUnits f b) 1 (fadd f a b) := by
  rw [fadd_finite ha hb]
  split
  · rename_i hzero
    have hround : roundUnits f (0 : Int).natAbs 1 = 0 := roundUnits_zero f 1
    have hroundsTo := roundsTo_withSign (f := f) (n := 0) (s := isNegative f a && isNegative f b) Nat.one_pos (by simp)
    rwa [hround, ← hzero] at hroundsTo
  · exact roundsTo_withSign Nat.one_pos (by simp only [decide_eq_true_eq]; split <;> omega)

/-- Settles O30: the exact sum is rounded as `RoundsTo` asks, and a difference is the sum with the sign inverted. -/
theorem sumIsRoundedToNearestEven : Obligations.SumIsRoundedToNearestEven := by
  refine fun f a b ha hb => ⟨roundsTo_fadd ha hb, ?_, fun hzero => ?_⟩
  · have hsub := roundsTo_fadd ha ((isFinite_fneg f b).mpr hb)
    rwa [signedUnits_fneg, ← Int.sub_eq_add_neg] at hsub
  · rw [fadd_finite ha hb, if_pos hzero]
    simp [withSign]

/-- Settles O31: the exact product and the exact quotient are rounded under the exclusive-or of the signs. -/
theorem productAndQuotientAreRoundedToNearestEven : Obligations.ProductAndQuotientAreRoundedToNearestEven := by
  refine fun f a b ha hb => ⟨?_, fun hne => ?_, fun hzero hne => ?_⟩
  · have hsign := mul_sign (signedUnits_sign f a) (signedUnits_sign f b)
    have hround := roundsTo_withSign (f := f) (unitScale_pos f) hsign
    rw [Int.natAbs_mul, natAbs_signedUnits, natAbs_signedUnits] at hround
    rw [fmul_finite ha hb]
    exact ⟨hround, isNegative_withSign f _ (roundUnits_lt f _ _)⟩
  · have hsign := mul_sign (signedUnits_sign f a) (signedScale_sign f b)
    have hround := roundsTo_withSign (f := f) (Nat.pos_of_ne_zero hne) hsign
    rw [Int.natAbs_mul, natAbs_signedUnits, natAbs_signedScale] at hround
    rw [fdiv_finite ha hb hne, ← mul_signedScale]
    exact ⟨hround, isNegative_withSign f _ (roundUnits_lt f _ _)⟩
  · rw [fdiv_by_zero ha hb hzero hne]
    exact isInf_withSign f _

end Sys2Proof.Machine
end

section
/-! PROOFS. Integers as numbers (00_scope.md R8), and sums and products with a zero (40_block_transform.md R101). -/

namespace Sys2Proof.Machine

variable {f : NumFormat}

theorem ofInt_natCast (f : NumFormat) (n : Nat) :
    ofInt f (n : Int) = withSign f false (roundUnits f (n * unitScale f) 1) := by
  rw [ofInt, decide_eq_false (Int.not_lt.mpr (Int.natCast_nonneg n)), Int.natAbs_natCast]

/-- `ofInt` is exact for the integers a significand holds (00_scope.md R8). -/
theorem ofInt_exact {n : Nat} (hn : n ≤ 2 * 2 ^ f.fracBits) :
    isFinite f (ofInt f (n : Int)) ∧ signedUnits f (ofInt f (n : Int)) = (n * unitScale f : Nat) := by
  obtain ⟨m, hm⟩ := exists_patternUnits f f.unitExp hn
  have hlt : m < infMagnitude f := by
    rw [← (patternUnits_strictMono f).lt_iff_lt, hm, patternUnits_infMagnitude]
    have hstep : 2 ^ f.unitExp < 2 ^ (f.expMax - 2) := Nat.pow_lt_pow_right (by decide) (by cases f <;> decide)
    exact (Nat.mul_le_mul_right _ hn).trans_lt (Nat.mul_lt_mul_of_pos_left hstep (by positivity))
  have hbits := magBits_withSign f false (hlt.trans (infMagnitude_lt f))
  have hsign := isNegative_withSign f false (hlt.trans (infMagnitude_lt f))
  rw [ofInt_natCast, unitScale, ← hm, roundUnits_patternUnits hlt, isFinite_iff, signedUnits_eq, hsign, hbits]
  exact ⟨hlt, rfl⟩

/-- The integers of 8 bits are such integers in every format. -/
theorem byte_le_significand (f : NumFormat) {n : Nat} (hn : n < 2 ^ 8) : n ≤ 2 * 2 ^ f.fracBits := by
  have hle : 2 ^ 8 ≤ 2 ^ f.fracBits := Nat.pow_le_pow_right (by decide) (by cases f <;> decide)
  omega

/-- 128.0 in the default format (00_scope.md R5): the least significand with the hidden bit, `2^52`, at the step `2^1029`. -/
theorem ofInt_levelShift : ofInt .binary64 128 = 0x4060000000000000 := by
  have hsig : IsSignificand .binary64 1029 (2 ^ 52) := ⟨.inr le_rfl, by decide⟩
  have hpow : ∀ k : Nat, 128 * 2 ^ (k + 45) = 2 ^ 52 * 2 ^ k := fun k => by ring
  have hexp : NumFormat.binary64.unitExp = 1029 + 45 := rfl
  have hofInt := ofInt_natCast .binary64 128
  rw [unitScale, hexp, hpow, ← patternUnits_of_isSignificand hsig, roundUnits_patternUnits (by decide)] at hofInt
  exact hofInt

/-! `+0`. -/

theorem withSign_false_zero (f : NumFormat) : withSign f false 0 = 0 := rfl

theorem isFinite_zero (f : NumFormat) : isFinite f 0 := (isFinite_withSign_zero f false).1

theorem units_zero (f : NumFormat) : units f 0 = 0 := (isFinite_withSign_zero f false).2.1

theorem isNegative_zero (f : NumFormat) : isNegative f 0 = false := (isFinite_withSign_zero f false).2.2

theorem fsub_self {a : Word} (ha : isFinite f a) : fsub f a a = 0 := by
  rw [fsub, fadd_finite ha ((isFinite_fneg f a).mpr ha), signedUnits_fneg, if_pos (by omega), isNegative_fneg]
  simp [withSign]

theorem fmul_zero {a : Word} (ha : isFinite f a) : fmul f a 0 = withSign f (isNegative f a) 0 := by
  rw [fmul_finite ha (isFinite_zero f), units_zero, Nat.mul_zero, roundUnits_zero, isNegative_zero, Bool.xor_false]

theorem signedUnits_of_units {v : Word} (h : units f v = 0) : signedUnits f v = 0 := by
  simp [signedUnits, h]

theorem fadd_zero_zero (s : Bool) : fadd f 0 (withSign f s 0) = 0 := by
  obtain ⟨hfinite, hunits, -⟩ := isFinite_withSign_zero f s
  rw [fadd_finite (isFinite_zero f) hfinite, signedUnits_of_units (units_zero f), signedUnits_of_units hunits,
    if_pos (by rfl), isNegative_zero, Bool.false_and, withSign_false_zero]

/-- A positive integer is its own sum with `+0`. -/
theorem fadd_zero_ofInt {n : Nat} (hpos : 0 < n) (hn : n ≤ 2 * 2 ^ f.fracBits) :
    fadd f 0 (ofInt f (n : Int)) = ofInt f (n : Int) := by
  obtain ⟨hfinite, hunits⟩ := ofInt_exact hn
  have hunitsPos : 0 < n * unitScale f := Nat.mul_pos hpos (unitScale_pos f)
  rw [fadd_finite (isFinite_zero f) hfinite, signedUnits_of_units (units_zero f), hunits, Int.zero_add,
    if_neg (by omega), roundSigned, decide_eq_false (by omega), Int.natAbs_natCast, ofInt_natCast]

theorem dot8_comm (f : NumFormat) (a b : Fin 8 → Word) : dot8 f a b = dot8 f b a := by
  simp only [dot8, fmul_comm f (a _)]

/-- An inner product with zeros is `+0`: the sum begins with the first product, so that one has to be `+0`, and it stays so
whatever the signs of the others (40_block_transform.md R107). -/
theorem dot8_zero {a : Fin 8 → Word} (ha : ∀ k, isFinite f (a k)) (hsign : isNegative f (a 0) = false) :
    dot8 f a (fun _ => 0) = 0 := by
  rw [dot8, fmul_zero (ha 0), hsign, withSign_false_zero]
  generalize ([1, 2, 3, 4, 5, 6, 7] : List (Fin 8)) = ks
  induction ks with
  | nil => rfl
  | cons k ks ih => rwa [List.foldl_cons, fmul_zero (ha k), fadd_zero_zero]

end Sys2Proof.Machine
end

section
/-! PROOFS. The block transform (40_block_transform.md R104 to R116): the cells each transformation leaves. -/

namespace Sys2Proof.Machine

/-! The cells. -/

theorem cell_forwardDct (p : Params) (b : Block) (u v : Fin 8) :
    cell (forwardDct p b) u v =
      dot8 p.num (fun k => dot8 p.num (fun j => p.cos u j) (fun j => fsub p.num (cell b j k) (ofInt p.num 128)))
        (fun k => p.cos v k) := by
  simp only [forwardDct, cell_blockOf]
  rfl

theorem cell_inverseDct (p : Params) (b : Block) (r c : Fin 8) :
    cell (inverseDct p b) r c =
      fadd p.num (dot8 p.num (fun k => dot8 p.num (fun j => p.cos j r) (fun j => cell b j k)) (fun k => p.cos k c))
        (ofInt p.num 128) := by
  simp only [inverseDct, cell_blockOf]
  rfl

theorem cell_quantize (p : Params) (b : Block) (r c : Fin 8) :
    cell (quantize p b) r c = fdiv p.num (cell b r c) (ofInt p.num (p.quant r c : Nat)) := by
  rw [quantize, cell_blockOf, quantNumber]

theorem cell_dequantize (p : Params) (b : Block) (r c : Fin 8) :
    cell (dequantize p b) r c = fmul p.num (cell b r c) (ofInt p.num (p.quant r c : Nat)) := by
  rw [dequantize, cell_blockOf, quantNumber]

/-- A command that writes every cell of BLK and completes: the cells, and nothing else changed (10_state.md R22). -/
theorem State.setBlk_ret_cells (s : State) {b : Block} {value : Fin 8 → Fin 8 → Word}
    (h : ∀ r c, cell b r c = value r c) :
    (∀ r c, cell ((s.setBlk b).ret 0).blk r c = value r c) ∧
    (s.setBlk b).ret 0 = { s with blk := ((s.setBlk b).ret 0).blk, err := .ok, result := 0 } :=
  ⟨h, rfl⟩

/-- A transform command completes with the cells of its transformation (40_block_transform.md R102). -/
theorem State.transform_cells (s : State) (g : Params → Block → Block) {value : Fin 8 → Fin 8 → Word}
    (h : ∀ r c, cell (g s.params s.blk) r c = value r c) :
    ∃ t, s.transform g = .next t ∧ (∀ r c, cell t.blk r c = value r c) ∧
      t = { s with blk := t.blk, err := .ok, result := 0 } :=
  ⟨_, rfl, s.setBlk_ret_cells h⟩

/-- Two commands that complete, one after the other (20_memory.md R64). -/
theorem runCommands_pair {i j : Instr} {s t u : State} (hi : exec i s = .next t) (hj : exec j t = .next u) :
    runCommands [i, j] s = .next u := by
  simp only [runCommands, hi, hj]

/-- A transform command whose transformation is two others composed is their two commands, one after the other. -/
theorem State.transform_composed (s : State) {i j k : Instr} {g h : Params → Block → Block}
    (hi : ∀ t, exec i t = t.transform g) (hj : ∀ t, exec j t = t.transform h)
    (hk : ∀ t, exec k t = t.transform fun p b => h p (g p b)) :
    ∃ t, exec k s = .next t ∧ runCommands [i, j] s = .next t ∧ t.err = .ok ∧ t.result = 0 :=
  ⟨_, hk s, runCommands_pair (hi s) (hj _), rfl, rfl⟩

/-! The default tables. -/

/-- The matrix of 40_block_transform.md R104 by its closed form: cosines of multiples of a 16th of a half turn, reduced to the
first quarter. -/
theorem defaultParams_cos (i j : Fin 8) (hi : i ≠ 0) :
    defaultParams.cos i j =
      let n := (2 * j.val + 1) * i.val % 32
      let m := if 16 < n then 32 - n else n
      let k := if 8 < m then 16 - m else m
      ([0x3FDF6297CFF75CB0, 0x3FDD906BCF328D46, 0x3FDA9B66290EA1A3, 0x3FD6A09E667F3BCD, 0x3FD1C73B39AE68C8,
        0x3FC87DE2A6AEA963, 0x3FB8F8B83C69A60B] : List Word).getD (k - 1) 0 |||
        (if 8 < m then 0x8000000000000000 else 0) := by
  revert i j
  decide

/-- Settles O25: the cells are those of the transformations, whatever BLK and CTAB hold. -/
theorem dctCellsFollowTheFormula : Obligations.DctCellsFollowTheFormula := by
  refine ⟨fun f a b => rfl, by decide, ?_, ⟨ofInt_levelShift, rfl⟩, fun s => ⟨?_, ?_⟩⟩
  · rintro i j hi n m k rfl rfl rfl
    exact defaultParams_cos i j hi
  · exact s.transform_cells _ (cell_forwardDct s.params s.blk)
  · exact s.transform_cells _ (cell_inverseDct s.params s.blk)

/-- `Qf[r][c]` is exact: an entry of the table has 8 bits (40_block_transform.md R106). -/
theorem quant_exact (p : Params) (r c : Fin 8) :
    isFinite p.num (ofInt p.num (p.quant r c : Nat)) ∧
    signedUnits p.num (ofInt p.num (p.quant r c : Nat)) = (p.quant r c * unitScale p.num : Nat) :=
  ofInt_exact (byte_le_significand p.num (BitVec.isLt _))

/-- Settles O26: the cells are those of the transformations, and a table's entry is exact. -/
theorem quantizationIsElementwise : Obligations.QuantizationIsElementwise := by
  refine ⟨fun s => ⟨?_, ?_, fun r c => ?_⟩, by decide⟩
  · exact s.transform_cells _ (cell_quantize s.params s.blk)
  · exact s.transform_cells _ (cell_dequantize s.params s.blk)
  · obtain ⟨hfinite, hunits⟩ := quant_exact s.params r c
    exact ⟨hfinite, hunits, fun hlegal => hlegal r c⟩

/-- Settles O27: the second command finds the parameters and the cells the first one left. -/
theorem xfmEqualsTheTwoCommands : Obligations.XfmEqualsTheTwoCommands :=
  fun s => ⟨s.transform_composed (fun _ => rfl) (fun _ => rfl) (fun _ => rfl),
    s.transform_composed (fun _ => rfl) (fun _ => rfl) (fun _ => rfl)⟩

/-! Flat blocks. -/

theorem defaultParams_cos_finite (i j : Fin 8) : isFinite .binary64 (defaultParams.cos i j) := by
  unfold isFinite
  revert i j
  decide

/-- The first row and the first column of the matrix are positive. -/
theorem defaultParams_cos_positive (i : Fin 8) :
    isNegative .binary64 (defaultParams.cos i 0) = false ∧ isNegative .binary64 (defaultParams.cos 0 i) = false := by
  revert i
  decide

theorem cos_of_ctab_eq {p q : Params} (h : p.ctab = q.ctab) (i j : Fin 8) : p.cos i j = q.cos i j := by
  rw [Params.cos, Params.cos, h]

/-- The mid-gray block transforms to zeros: both products begin with a positive entry of the matrix (40_block_transform.md
R111). -/
theorem forwardDct_midGray {p : Params} (hcos : ∀ i j, isFinite p.num (p.cos i j))
    (hsign : ∀ i, isNegative p.num (p.cos i 0) = false) {b : Block} (hb : ∀ r c, cell b r c = ofInt p.num 128)
    (u v : Fin 8) :
    cell (forwardDct p b) u v = 0 := by
  have hgray : isFinite p.num (ofInt p.num 128) := (ofInt_exact (n := 128) (byte_le_significand p.num (by decide))).1
  have hproduct : ∀ i, dot8 p.num (fun k => p.cos i k) (fun _ => 0) = 0 := fun i => dot8_zero (hcos i) (hsign i)
  simp only [cell_forwardDct, hb, fsub_self hgray, hproduct]
  rw [dot8_comm, hproduct]

/-- The zero block transforms back to mid-gray (40_block_transform.md R112). -/
theorem inverseDct_zero {p : Params} (hcos : ∀ i j, isFinite p.num (p.cos i j))
    (hsign : ∀ i, isNegative p.num (p.cos 0 i) = false) {b : Block} (hb : ∀ r c, cell b r c = 0) (r c : Fin 8) :
    cell (inverseDct p b) r c = ofInt p.num 128 := by
  have hproduct : ∀ i, dot8 p.num (fun k => p.cos k i) (fun _ => 0) = 0 :=
    fun i => dot8_zero (fun k => hcos k i) (hsign i)
  simp only [cell_inverseDct, hb, hproduct]
  rw [dot8_comm, hproduct]
  exact fadd_zero_ofInt (n := 128) (by decide) (byte_le_significand p.num (by decide))

/-- Settles O28: the default matrix is finite, its first row and first column positive. -/
theorem midGrayAndZeroBlocksTransformExactly : Obligations.MidGrayAndZeroBlocksTransformExactly := by
  intro s hnum hctab
  have hcos : ∀ i j, s.params.cos i j = defaultParams.cos i j := cos_of_ctab_eq hctab
  have hnum' : s.params.num = .binary64 := hnum
  have hfinite : ∀ i j, isFinite s.params.num (s.params.cos i j) := fun i j => by
    rw [hcos, hnum']
    exact defaultParams_cos_finite i j
  have hgray : ofInt s.params.num 128 = 0x4060000000000000 := by rw [hnum', ofInt_levelShift]
  refine ⟨fun hb => ⟨_, rfl, forwardDct_midGray hfinite (fun i => ?_) (by rwa [hgray])⟩,
    fun hb => ⟨_, rfl, hgray ▸ inverseDct_zero hfinite (fun i => ?_) hb⟩⟩
  · rw [hcos, hnum']
    exact (defaultParams_cos_positive i).1
  · rw [hcos, hnum']
    exact (defaultParams_cos_positive i).2

end Sys2Proof.Machine
end

section
/-! PROOFS. The image and block commands (40_block_transform.md R108 to R110; 20_memory.md R59). -/

namespace Sys2Proof.Machine

/-- A register of `DIM_BITS` bits holds an operand of `DIM_BITS` bits (00_scope.md R5). -/
theorem State.dimReg_of_fits (s : State) {x : Nat} (hx : x < 2 ^ s.widths.dimBits.val) : (s.dimReg x).toNat = x := by
  rw [State.dimReg_toNat, Nat.mod_eq_of_lt hx]

/-- Settles O21: the operands fit the registers, and the check comes before any write. -/
theorem cfgDimSetsImageAndRewinds : Obligations.CfgDimSetsImageAndRewinds := by
  intro w h s hw hh
  constructor
  · intro hfit
    exact ⟨((s.setDims w h).rewind).ret 0, congrArg _ (if_neg (Nat.not_lt.mpr hfit)), s.dimReg_of_fits hw,
      s.dimReg_of_fits hh, rfl⟩
  · intro hover
    exact congrArg _ (if_pos hover)

/-! The cells of a block in the plane. -/

theorem State.insidePlane_iff (s : State) (x0 y0 : Nat) (r c : Fin 8) :
    s.insidePlane x0 y0 r c = true ↔ x0 + c.val < s.width.toNat ∧ y0 + r.val < s.height.toNat := by
  simp [State.insidePlane]

theorem State.dimsFit_iff (s : State) : s.dimsFit = true ↔ s.width.toNat * s.height.toNat ≤ s.planeWords := by
  simp [State.dimsFit]

theorem State.cell_loadBlock (s : State) (x0 y0 : Nat) (r c : Fin 8) :
    cell (s.loadBlock x0 y0) r c =
      if x0 + c.val < s.width.toNat ∧ y0 + r.val < s.height.toNat then
        s.planeAt ((y0 + r.val) * s.width.toNat + (x0 + c.val)) else 0 := by
  simp only [State.loadBlock, cell_blockOf, State.insidePlane_iff]
  rfl

theorem exec_blkLoad {s : State} (hfit : s.width.toNat * s.height.toNat ≤ s.planeWords) (x0 y0 : Nat) :
    exec (.blkLoad x0 y0) s = .next ((s.setBlk (s.loadBlock x0 y0)).ret 0) := by
  have harm : exec (.blkLoad x0 y0) s = execBlkLoad x0 y0 s := rfl
  rw [harm, execBlkLoad, State.onPlane_of_fit _ (s.dimsFit_iff.mpr hfit)]

theorem exec_blkStore {s : State} (hfit : s.width.toNat * s.height.toNat ≤ s.planeWords) (x0 y0 : Nat) :
    exec (.blkStore x0 y0) s = .next ((s.storeBlock x0 y0).ret 0) := by
  have harm : exec (.blkStore x0 y0) s = execBlkStore x0 y0 s := rfl
  rw [harm, execBlkStore, State.onPlane_of_fit _ (s.dimsFit_iff.mpr hfit)]

/-- Settles O22: BLK.LOAD builds the block cell by cell, and the dimensions fit. -/
theorem blkLoadMaterialisesBlock : Obligations.BlkLoadMaterialisesBlock := fun x0 y0 s hfit =>
  ⟨_, exec_blkLoad hfit x0 y0, s.setBlk_ret_cells (s.cell_loadBlock x0 y0)⟩

/-! BLK.STORE. -/

/-- Two cells inside the plane have the same address only if they are the same cell (20_memory.md R59). -/
theorem State.cellAddr_inj {s : State} {x0 y0 : Nat} {r c r' c' : Fin 8} (h : s.insidePlane x0 y0 r c = true)
    (h' : s.insidePlane x0 y0 r' c' = true) (heq : s.cellAddr x0 y0 r c = s.cellAddr x0 y0 r' c') : r = r' ∧ c = c' := by
  obtain ⟨hcol, -⟩ := (s.insidePlane_iff x0 y0 r c).mp h
  obtain ⟨hcol', -⟩ := (s.insidePlane_iff x0 y0 r' c').mp h'
  simp only [State.cellAddr, planeAddr] at heq
  have hrow : y0 + r.val = y0 + r'.val := by
    have hdiv := congrArg (· / s.width.toNat) heq
    simpa only [Nat.mul_comm _ s.width.toNat, Nat.mul_add_div (Nat.zero_lt_of_lt hcol), Nat.div_eq_of_lt hcol,
      Nat.div_eq_of_lt hcol', Nat.add_zero] using hdiv
  rw [hrow] at heq
  exact ⟨Fin.ext (by omega), Fin.ext (by omega)⟩

/-- The linear index of cell `(r, c)` (10_state.md R21). -/
def cellIndex (r c : Fin 8) : Fin 64 := ⟨8 * r.val + c.val, by omega⟩

theorem cellIndex_surjective (k : Fin 64) : ∃ r c, k = cellIndex r c :=
  ⟨⟨k.val / 8, by omega⟩, ⟨k.val % 8, by omega⟩, Fin.ext (by simp only [cellIndex]; omega)⟩

theorem cellIndex_inj {r c r' c' : Fin 8} (h : cellIndex r c = cellIndex r' c') : r = r' ∧ c = c' := by
  simp only [cellIndex, Fin.mk.injEq] at h
  exact ⟨Fin.ext (by omega), Fin.ext (by omega)⟩

theorem State.storeCell_cellIndex (s : State) (x0 y0 : Nat) (r c : Fin 8) :
    s.storeCell x0 y0 (cellIndex r c) =
      if s.insidePlane x0 y0 r c then s.setPlaneAt (s.cellAddr x0 y0 r c) (cell s.blk r c) else s := by
  have hr : (⟨(cellIndex r c).val / 8, by omega⟩ : Fin 8) = r := Fin.ext (by simp only [cellIndex]; omega)
  have hc : (⟨(cellIndex r c).val % 8, by omega⟩ : Fin 8) = c := Fin.ext (by simp only [cellIndex]; omega)
  simp only [State.storeCell, hr, hc]

/-- The word of a cell inside the plane holds the cell once the store has reached it, and keeps it: no other cell has its
address (40_block_transform.md R110). -/
theorem State.planeAt_storeCells {x0 y0 : Nat} {r c : Fin 8} {ks : List (Fin 64)} {s : State}
    (hin : s.insidePlane x0 y0 r c = true)
    (h : cellIndex r c ∈ ks ∨ s.planeAt (s.cellAddr x0 y0 r c) = cell s.blk r c) :
    (ks.foldl (fun t k => t.storeCell x0 y0 k) s).planeAt (s.cellAddr x0 y0 r c) = cell s.blk r c := by
  induction ks generalizing s with
  | nil => exact h.resolve_left (List.not_mem_nil)
  | cons k ks ih =>
    have hcell : cellIndex r c ∈ ks ∨ (s.storeCell x0 y0 k).planeAt (s.cellAddr x0 y0 r c) = cell s.blk r c := by
      obtain ⟨r', c', rfl⟩ := cellIndex_surjective k
      rw [State.storeCell_cellIndex]
      by_cases hsame : r = r' ∧ c = c'
      · obtain ⟨rfl, rfl⟩ := hsame
        exact .inr (by rw [if_pos hin, State.planeAt_setPlaneAt_same])
      · refine h.imp (fun hk => (List.mem_cons.mp hk).resolve_left fun heq => hsame (cellIndex_inj heq)) ?_
        intro hold
        split
        · rename_i hin'
          rwa [State.planeAt_setPlaneAt_other _ _ fun heq => hsame (State.cellAddr_inj hin hin' heq)]
        · exact hold
    obtain ⟨m, hm⟩ : ∃ m, s.storeCell x0 y0 k = { s with plane := m } := by
      rcases s.storeCell_cases x0 y0 k with ⟨_, _, -, hw⟩ | hw
      · exact ⟨_, hw⟩
      · exact ⟨_, hw⟩
    rw [List.foldl_cons, hm]
    rw [hm] at hcell
    exact ih (s := { s with plane := m }) hin hcell

/-- BLK.STORE writes each cell inside the plane (40_block_transform.md R110). -/
theorem State.planeAt_storeBlock_inside {s : State} {x0 y0 : Nat} {r c : Fin 8} (hin : s.insidePlane x0 y0 r c = true) :
    (s.storeBlock x0 y0).planeAt (s.cellAddr x0 y0 r c) = cell s.blk r c :=
  State.planeAt_storeCells hin (.inl (List.mem_finRange _))

/-- A word that is no cell's is as it was (40_block_transform.md R110). -/
theorem State.planeAt_storeBlock_other {s : State} {x0 y0 a : Nat}
    (ha : ∀ r c, s.insidePlane x0 y0 r c = true → a ≠ s.cellAddr x0 y0 r c) :
    (s.storeBlock x0 y0).planeAt a = s.planeAt a := by
  refine (State.storeBlock_induction (P := fun t => (∃ m, t = { s with plane := m }) ∧ t.planeAt a = s.planeAt a) x0 y0 ?_
    ⟨⟨s.plane, rfl⟩, rfl⟩).2
  rintro t r c ⟨⟨m, rfl⟩, hold⟩ hin
  exact ⟨⟨_, rfl⟩, (State.planeAt_setPlaneAt_other _ _ (ha r c hin)).trans hold⟩

/-- Settles O23: the words of the inside cells, and every other word. -/
theorem blkStoreWritesInsideCells : Obligations.BlkStoreWritesInsideCells := by
  refine fun x0 y0 s hfit => ⟨_, exec_blkStore hfit x0 y0, fun r c hcol hrow => ?_, fun a ha => ?_, ?_⟩
  · rw [State.ret_planeAt]
    exact State.planeAt_storeBlock_inside ((s.insidePlane_iff x0 y0 r c).mpr ⟨hcol, hrow⟩)
  · rw [State.ret_planeAt]
    refine State.planeAt_storeBlock_other fun r c hin => ?_
    obtain ⟨hcol, hrow⟩ := (s.insidePlane_iff x0 y0 r c).mp hin
    exact ha r c hcol hrow
  · obtain ⟨m, hm⟩ := s.storeBlock_frame x0 y0
    rw [hm]
    rfl

/-- Settles O24: the load finds the dimensions and, at each inside cell's address, the word the store wrote. -/
theorem storeThenLoadKeepsInsideCells : Obligations.StoreThenLoadKeepsInsideCells := by
  intro x0 y0 s hfit
  have hkeeps := s.storeBlock_keeps x0 y0
  have hfit' : ((s.storeBlock x0 y0).ret 0).width.toNat * ((s.storeBlock x0 y0).ret 0).height.toNat ≤
      ((s.storeBlock x0 y0).ret 0).planeWords := by
    obtain ⟨m, hm⟩ := s.storeBlock_frame x0 y0
    rwa [hm]
  refine ⟨_, runCommands_pair (exec_blkStore hfit x0 y0) (exec_blkLoad hfit' x0 y0), rfl, fun r c => ?_⟩
  rw [State.ret_blk, State.setBlk_blk, State.cell_loadBlock]
  simp only [State.ret_width, State.ret_height, State.ret_planeAt, hkeeps]
  split
  · rename_i hin
    exact State.planeAt_storeBlock_inside ((s.insidePlane_iff x0 y0 r c).mpr hin)
  · rfl

end Sys2Proof.Machine
end

section
/-! PROOFS. The magnitude of a number and the predicate, read off the units (41_order_predicate.md R140, R141). -/

namespace Sys2Proof.Machine

variable {f : NumFormat} {v : Word} {m o : Nat}

/-! The sign cleared. -/

theorem magBits_lt (f : NumFormat) (v : Word) : magBits f v < 2 ^ f.signAt := Nat.mod_lt _ (Nat.two_pow_pos _)

theorem fabs_eq (f : NumFormat) (v : Word) : fabs f v = withSign f false (magBits f v) := rfl

@[simp] theorem magBits_fabs (f : NumFormat) (v : Word) : magBits f (fabs f v) = magBits f v := by
  rw [fabs_eq, magBits_withSign f false (magBits_lt f v)]

@[simp] theorem isNegative_fabs (f : NumFormat) (v : Word) : isNegative f (fabs f v) = false := by
  rw [fabs_eq, isNegative_withSign f false (magBits_lt f v)]

@[simp] theorem isFinite_fabs (f : NumFormat) (v : Word) : isFinite f (fabs f v) ↔ isFinite f v := by
  simp only [isFinite_iff, magBits_fabs]

@[simp] theorem isNaN_fabs (f : NumFormat) (v : Word) : isNaN f (fabs f v) = isNaN f v := by
  rw [Bool.eq_iff_iff, isNaN_iff, isNaN_iff, magBits_fabs]

@[simp] theorem units_fabs (f : NumFormat) (v : Word) : units f (fabs f v) = units f v := by
  rw [units_eq, units_eq, magBits_fabs]

theorem signedUnits_of_nonneg (h : isNegative f v = false) : signedUnits f v = units f v := by
  rw [signedUnits, h, if_neg Bool.false_ne_true]

/-! The magnitude. -/

theorem floorInt_of_nonneg (h : isNegative f v = false) : floorInt f v = (units f v / unitScale f : Nat) := by
  rw [floorInt, signedUnits_of_nonneg h, Int.natCast_ediv]

/-- A natural number that a significand holds, as a number. -/
theorem ofInt_natCast_exact (hm : m ≤ 2 * 2 ^ f.fracBits) :
    isFinite f (ofInt f (m : Int)) ∧ units f (ofInt f (m : Int)) = m * unitScale f ∧
      isNegative f (ofInt f (m : Int)) = false := by
  obtain ⟨hfinite, hunits⟩ := ofInt_exact hm
  refine ⟨hfinite, ?_, ?_⟩
  · rw [← natAbs_signedUnits, hunits, Int.natAbs_natCast]
  · rw [ofInt_natCast, isNegative_withSign f false (roundUnits_lt f _ _)]

/-- `floor(|v|)` is exact where a significand holds it (41_order_predicate.md R140). -/
theorem magnitude_eq (hv : isFinite f v) (hm : units f v / unitScale f ≤ 2 * 2 ^ f.fracBits) :
    magnitude f v = units f v / unitScale f := by
  have hfinite : isFinite f (fabs f v) := (isFinite_fabs f v).mpr hv
  have hfloor : floorInt f (fabs f v) = (units f v / unitScale f : Nat) := by
    rw [floorInt_of_nonneg (isNegative_fabs f v), units_fabs]
  rw [magnitude, toInt, ffloor, not_isNaN_of_isFinite hfinite, not_isInf_of_isFinite hfinite, hfloor,
    if_neg Bool.false_ne_true, if_neg Bool.false_ne_true]
  split
  · rename_i hzero
    obtain ⟨-, hunits, hsign⟩ := isFinite_withSign_zero f (isNegative f (fabs f v))
    rw [isNegative_fabs] at hunits hsign ⊢
    rw [floorInt_of_nonneg hsign, hunits, Nat.zero_div]
    omega
  · obtain ⟨-, hunits, hsign⟩ := ofInt_natCast_exact hm
    rw [floorInt_of_nonneg hsign, hunits, Nat.mul_div_cancel _ (unitScale_pos f), Int.toNat_natCast]

/-! The predicate. -/

/-- Below a positive number come the finite numbers of fewer units, whatever their signs; no infinity and no NaN does
(41_order_predicate.md R140). -/
theorem flt_fabs_iff {b : Word} (hb : isFinite f b) (hsign : isNegative f b = false) :
    flt f (fabs f v) b = true ↔ isFinite f v ∧ units f v < units f b := by
  have hkey : ∀ {w}, isNegative f w = false → orderKey f w = magBits f w := fun h => by
    rw [orderKey, h, if_neg Bool.false_ne_true, magBits]
  have hnan := isNaN_iff f v
  rw [isFinite_iff] at hb
  rw [flt, hkey (isNegative_fabs f v), hkey hsign, magBits_fabs, isNaN_fabs, not_isNaN_of_isFinite ((isFinite_iff f b).mpr hb),
    isFinite_iff, units_eq, units_eq, (patternUnits_strictMono f).lt_iff_lt]
  simp only [Bool.not_false, Bool.and_true, Bool.and_eq_true, Bool.not_eq_true', decide_eq_true_eq, Nat.cast_lt,
    ← Bool.not_eq_true, hnan]
  omega

/-- A magnitude `m` that may carry a bit at order `o` (41_order_predicate.md R140). -/
abbrev EligibleMagnitude (m o : Nat) : Prop := 2 ^ (o + 1) ≤ m ∧ m ||| 2 ^ o ≤ Config.maxMag

theorem EligibleMagnitude.lt (h : EligibleMagnitude m o) : m < Config.maxMag + 1 :=
  Nat.lt_succ_of_le (Nat.left_le_or.trans h.2)

theorem EligibleMagnitude.le_significand (h : EligibleMagnitude m o) (f : NumFormat) : m ≤ 2 * 2 ^ f.fracBits :=
  byte_le_significand f (h.lt.trans (by decide))

/-- The predicate is a finite number with an eligible magnitude: its short cut at 21 leaves no such number out
(41_order_predicate.md R140). -/
theorem isEligible_iff : isEligible f v o = true ↔ isFinite f v ∧ EligibleMagnitude (units f v / unitScale f) o := by
  obtain ⟨hfinite, hunits, hsign⟩ := ofInt_natCast_exact (byte_le_significand f (n := Config.maxMag + 1) (by decide))
  have hcut : flt f (fabs f v) (aboveMaxMag f) = true ↔
      isFinite f v ∧ units f v / unitScale f < Config.maxMag + 1 := by
    rw [aboveMaxMag, flt_fabs_iff hfinite hsign, hunits, Nat.div_lt_iff_lt_mul (unitScale_pos f)]
  by_cases hshort : flt f (fabs f v) (aboveMaxMag f) = true
  · obtain ⟨hv, hlt⟩ := hcut.mp hshort
    have hmagnitude := magnitude_eq hv (byte_le_significand f (hlt.trans (by decide)))
    simp [isEligible, not_isNaN_of_isFinite hv, hshort, hmagnitude, hv]
  · have hnot : ¬ isEligible f v o = true := by simp [isEligible, hshort]
    exact iff_of_false hnot fun ⟨hv, helig⟩ => hshort (hcut.mpr ⟨hv, helig.lt⟩)

/-- The magnitude of an eligible number is exact. -/
theorem magnitude_of_isEligible (h : isEligible f v o = true) : magnitude f v = units f v / unitScale f := by
  obtain ⟨hv, helig⟩ := isEligible_iff.mp h
  exact magnitude_eq hv (helig.le_significand f)

theorem carriedBit_of_isEligible (h : isEligible f v o = true) :
    carriedBit f v o = (units f v / unitScale f).testBit o := by
  rw [carriedBit, magnitude_of_isEligible h]

/-- The eligible magnitudes, order by order (41_order_predicate.md R141). From order 4 on the first clause alone asks for
more than 20, so the finite enumeration is over the orders below. -/
theorem eligibleMagnitude_iff (m o : Nat) :
    EligibleMagnitude m o ↔
      (o = 0 ∧ 2 ≤ m ∧ m < 20) ∨ (o = 1 ∧ 4 ≤ m ∧ m < 20) ∨ (o = 2 ∧ (8 ≤ m ∧ m < 17 ∨ 20 ≤ m ∧ m < 21)) := by
  rcases Nat.lt_or_ge m 21 with hm | hm
  · rcases Nat.lt_or_ge o 4 with ho | ho
    · lift m to Fin 21 using hm
      lift o to Fin 4 using ho
      revert m o
      decide
    · have hpow : 2 ^ 5 ≤ 2 ^ (o + 1) := Nat.pow_le_pow_right (by decide) (by omega)
      exact iff_of_false (fun h => absurd h.1 (by omega)) (by omega)
  · exact iff_of_false (fun h => absurd h.lt (Nat.not_lt.mpr hm)) (by omega)

theorem absInRange_iff (f : NumFormat) (v : Word) (lo hi : Nat) :
    absInRange f v lo hi ↔ isFinite f v ∧ lo ≤ units f v / unitScale f ∧ units f v / unitScale f < hi := by
  rw [absInRange, isFinite, Nat.le_div_iff_mul_le (unitScale_pos f), Nat.div_lt_iff_lt_mul (unitScale_pos f)]

/-- The table of 41_order_predicate.md R141. -/
theorem isEligible_iff_table :
    isEligible f v o = true ↔
      (o = 0 ∧ absInRange f v 2 20) ∨ (o = 1 ∧ absInRange f v 4 20) ∨
      (o = 2 ∧ (absInRange f v 8 17 ∨ absInRange f v 20 21)) := by
  rw [isEligible_iff, eligibleMagnitude_iff]
  simp only [absInRange_iff]
  tauto

/-- The zero-yield orders (41_order_predicate.md R141). -/
theorem isEligible_of_three_le (h : 3 ≤ o) : isEligible f v o = false := by
  rw [← Bool.not_eq_true, isEligible_iff_table]
  omega

/-! ELIG. -/

theorem bitWord_cases (b : Bool) : bitWord b = 0 ∨ bitWord b = 1 := by
  cases b
  · exact .inl rfl
  · exact .inr rfl

theorem bitWord_eq_one_iff (b : Bool) : bitWord b = 1 ↔ b = true := by cases b <;> decide

theorem exec_elig (k order : Nat) (s : State) :
    exec (.elig k order) s =
      .next (if s.orderLegal order then s.ret (bitWord (isEligible s.num (s.blkAt k) order))
        else s.raise .invalidArgument 0) := rfl

theorem State.orderLegal_iff (s : State) (order : Nat) : s.orderLegal order = true ↔ order ≤ s.orderMax := decide_eq_true_iff

/-- Settles O32: ELIG answers the predicate, and the predicate is the table. -/
theorem eligFollowsTheMagnitudeTable : Obligations.EligFollowsTheMagnitudeTable := by
  intro k order s _
  rw [exec_elig]
  refine ⟨fun hlegal => ?_, fun habove => ?_⟩
  · rw [if_pos ((s.orderLegal_iff order).mpr hlegal)]
    exact ⟨_, rfl, rfl, bitWord_cases _, (bitWord_eq_one_iff _).trans isEligible_iff_table⟩
  · rw [if_neg fun hlegal => Nat.not_le.mpr habove ((s.orderLegal_iff order).mp hlegal)]
    rfl

end Sys2Proof.Machine
end

section
/-! PROOFS. One bit of an integer written (44_scanner.md R195): the other bits, and the integers it is a part of. -/

namespace Sys2Proof.Machine

variable {m o k : Nat} {bit : Bool}

theorem testBit_withBit (m o : Nat) (bit : Bool) (j : Nat) :
    (withBit m o bit).testBit j = if j = o then bit else m.testBit j := by
  by_cases hj : j = o
  · cases bit <;> simp [withBit, hj]
  · cases bit <;> simp [withBit, hj, Ne.symm hj]

/-- Writing the bit that is there. -/
theorem withBit_of_testBit (h : m.testBit o = bit) : withBit m o bit = m := by
  refine Nat.eq_of_testBit_eq fun j => ?_
  rw [testBit_withBit]
  split
  · rename_i hj
    rw [hj, h]
  · rfl

theorem withBit_or (m o : Nat) (bit : Bool) : withBit m o bit ||| 2 ^ o = m ||| 2 ^ o := by
  refine Nat.eq_of_testBit_eq fun j => ?_
  rw [Nat.testBit_or, Nat.testBit_or, testBit_withBit, Nat.testBit_two_pow]
  by_cases hj : j = o
  · simp [hj]
  · rw [if_neg hj]

/-- The part above the bit is left alone. -/
theorem withBit_div_of_lt (h : o < k) : withBit m o bit / 2 ^ k = m / 2 ^ k := by
  refine Nat.eq_of_testBit_eq fun j => ?_
  rw [Nat.testBit_div_two_pow, Nat.testBit_div_two_pow, testBit_withBit, if_neg (by omega)]

/-- The part below the bit is left alone. -/
theorem withBit_mod_of_le (h : k ≤ o) : withBit m o bit % 2 ^ k = m % 2 ^ k := by
  refine Nat.eq_of_testBit_eq fun j => ?_
  rw [Nat.testBit_mod_two_pow, Nat.testBit_mod_two_pow, testBit_withBit]
  by_cases hj : j < k
  · rw [if_neg (by omega)]
  · simp [hj]

/-- The part from bit `k` on has the bit written at its own place. -/
theorem withBit_div (m o k : Nat) (bit : Bool) : withBit m (o + k) bit / 2 ^ k = withBit (m / 2 ^ k) o bit := by
  refine Nat.eq_of_testBit_eq fun j => ?_
  simp only [Nat.testBit_div_two_pow, testBit_withBit, Nat.add_right_cancel_iff]

theorem withBit_mul (m o k : Nat) (bit : Bool) : withBit (m * 2 ^ k) (o + k) bit = withBit m o bit * 2 ^ k := by
  have hdiv := withBit_div (m * 2 ^ k) o k bit
  have hmod := withBit_mod_of_le (m := m * 2 ^ k) (bit := bit) (Nat.le_add_left k o)
  rw [Nat.mul_div_cancel _ (Nat.two_pow_pos k)] at hdiv
  rw [Nat.mul_mod_left] at hmod
  rw [← Nat.div_add_mod' (withBit (m * 2 ^ k) (o + k) bit) (2 ^ k), hdiv, hmod, Nat.add_zero]

theorem withBit_lt (ho : o < k) (hm : m < 2 ^ k) : withBit m o bit < 2 ^ k := by
  rw [← Nat.div_eq_zero_iff_lt (Nat.two_pow_pos k), withBit_div_of_lt ho, Nat.div_eq_of_lt hm]

/-- Eligibility survives a bit write (41_order_predicate.md R143): the bits above `o` make the magnitude large enough, and
the or takes in bit `o` anyway. -/
theorem EligibleMagnitude.withBit (h : EligibleMagnitude m o) (bit : Bool) :
    EligibleMagnitude (withBit m o bit) o := by
  obtain ⟨hlow, hhigh⟩ := h
  have hiff : ∀ n, 2 ^ (o + 1) ≤ n ↔ 1 ≤ n / 2 ^ (o + 1) := fun n => by
    rw [Nat.le_div_iff_mul_le (Nat.two_pow_pos _), Nat.one_mul]
  refine ⟨?_, by rwa [withBit_or]⟩
  rwa [hiff, withBit_div_of_lt (Nat.lt_succ_self o), ← hiff]

end Sys2Proof.Machine
end

section
/-! PROOFS. A bit of a number rewritten (44_scanner.md R195): the operations of the rule are exact on an eligible number, and
what they make of its units is one bit written. -/

namespace Sys2Proof.Machine

variable {f : NumFormat} {v : Word} {o : Nat}

theorem five_le_fracBits (f : NumFormat) : 5 ≤ f.fracBits := by cases f <;> decide

/-- Patterns of small numbers are finite. -/
theorem lt_infMagnitude_of_patternUnits_le {p n : Nat} (hn : n ≤ 2 * 2 ^ f.fracBits)
    (hp : patternUnits f p ≤ n * unitScale f) : p < infMagnitude f := by
  obtain ⟨hfinite, hunits, -⟩ := ofInt_natCast_exact hn
  rw [isFinite_iff] at hfinite
  rw [← hunits, units_eq, (patternUnits_strictMono f).le_iff_le] at hp
  exact hp.trans_lt hfinite

/-- A sum that is a number of the format is that number: it is not rounded (40_block_transform.md R101). -/
theorem fadd_exact {a b : Word} {p : Nat} (ha : isFinite f a) (hb : isFinite f b) (hsign : isNegative f a = false)
    (hp : p < infMagnitude f) (hsum : signedUnits f a + signedUnits f b = (patternUnits f p : Int)) :
    fadd f a b = withSign f false p := by
  rw [fadd_finite ha hb, hsum]
  split
  · rename_i hzero
    have hp0 : p = 0 := (patternUnits_strictMono f).injective (by rw [patternUnits_zero]; omega)
    rw [hsign, Bool.false_and, hp0]
  · rw [roundSigned, decide_eq_false (by omega), Int.natAbs_natCast, roundUnits_patternUnits hp]

/-- A number below `2^fracBits` is a significand at a step that divides 1. -/
theorem exists_significand (hv : units f v < 2 ^ f.fracBits * unitScale f) :
    ∃ q e, units f v = q * 2 ^ e ∧ q < 2 ^ (f.fracBits + 1) ∧ e ≤ f.unitExp := by
  obtain ⟨e, q, hbits, hsig, htop⟩ := exists_isSignificand f (magBits f v)
  have hunits : units f v = q * 2 ^ e := by rw [units_eq, hbits, patternUnits_of_isSignificand hsig]
  refine ⟨q, e, hunits, by rw [Nat.pow_succ]; omega, ?_⟩
  obtain ⟨rfl | hhidden, -⟩ := hsig
  · exact Nat.zero_le _
  · by_contra hlt
    have hscale : unitScale f ≤ 2 ^ e := Nat.pow_le_pow_right (by decide) (by omega)
    have hle := Nat.mul_le_mul hhidden hscale
    omega

theorem units_lt_of_eligibleMagnitude (h : EligibleMagnitude (units f v / unitScale f) o) :
    units f v < 2 ^ f.fracBits * unitScale f := by
  have hpow : 2 ^ 5 ≤ 2 ^ f.fracBits := Nat.pow_le_pow_right (by decide) (five_le_fracBits f)
  rw [← Nat.div_lt_iff_lt_mul (unitScale_pos f)]
  exact h.lt.trans_le (le_trans (by decide) hpow)

/-- The fraction of an eligible number is a number of the format. -/
theorem exists_fraction_pattern (h : EligibleMagnitude (units f v / unitScale f) o) :
    ∃ p, p < infMagnitude f ∧ patternUnits f p = units f v % unitScale f := by
  obtain ⟨q, e, hunits, hq, he⟩ := exists_significand (units_lt_of_eligibleMagnitude h)
  have hfrac : units f v % unitScale f = q % 2 ^ (f.unitExp - e) * 2 ^ e := by
    rw [hunits, unitScale, ← Nat.mul_mod_mul_right, ← Nat.pow_add, Nat.sub_add_cancel he]
  have hmod := Nat.mod_le q (2 ^ (f.unitExp - e))
  obtain ⟨p, hp⟩ := exists_patternUnits f e (n := q % 2 ^ (f.unitExp - e)) (by rw [Nat.pow_succ] at hq; omega)
  rw [← hfrac] at hp
  refine ⟨p, lt_infMagnitude_of_patternUnits_le (n := 1) (byte_le_significand f (by decide)) ?_, hp⟩
  rw [hp, Nat.one_mul]
  exact (Nat.mod_lt _ (unitScale_pos f)).le

theorem withBit_units_div (f : NumFormat) (n o : Nat) (bit : Bool) :
    withBit n (o + f.unitExp) bit / unitScale f = withBit (n / unitScale f) o bit := withBit_div n o f.unitExp bit

theorem withBit_units_mod (f : NumFormat) (n o : Nat) (bit : Bool) :
    withBit n (o + f.unitExp) bit % unitScale f = n % unitScale f := withBit_mod_of_le (Nat.le_add_left _ _)

/-- An eligible number with a bit of its magnitude written is a number of the format: the bit lies below the significand's
leading one, so it is written inside the significand (44_scanner.md R195). -/
theorem exists_withBit_pattern (h : EligibleMagnitude (units f v / unitScale f) o) (bit : Bool) :
    ∃ p, p < infMagnitude f ∧ patternUnits f p = withBit (units f v) (o + f.unitExp) bit := by
  obtain ⟨q, e, hunits, hq, he⟩ := exists_significand (units_lt_of_eligibleMagnitude h)
  obtain ⟨k, hk⟩ := Nat.exists_eq_add_of_le' he
  have hscale : unitScale f = 2 ^ k * 2 ^ e := by rw [unitScale, hk, Nat.pow_add]
  have hinside : o + k < f.fracBits + 1 := by
    have hlow := h.1
    rw [hunits, hscale, Nat.mul_div_mul_right _ _ (Nat.two_pow_pos e),
      Nat.le_div_iff_mul_le (Nat.two_pow_pos k), ← Nat.pow_add] at hlow
    have hpow := (Nat.pow_lt_pow_iff_right Nat.one_lt_two).mp (hlow.trans_lt hq)
    omega
  have hbit : withBit (units f v) (o + f.unitExp) bit = withBit q (o + k) bit * 2 ^ e := by
    rw [hunits, hk, ← Nat.add_assoc, withBit_mul]
  have hlt : withBit q (o + k) bit < 2 ^ (f.fracBits + 1) := withBit_lt hinside hq
  obtain ⟨p, hp⟩ := exists_patternUnits f e (n := withBit q (o + k) bit) (by rw [Nat.pow_succ] at hlt; omega)
  rw [← hbit] at hp
  refine ⟨p, lt_infMagnitude_of_patternUnits_le (n := Config.maxMag + 1) (byte_le_significand f (by decide)) ?_, hp⟩
  have hmagnitude := (h.withBit bit).lt
  rw [← withBit_units_div, ← hp, Nat.div_lt_iff_lt_mul (unitScale_pos f)] at hmagnitude
  exact hmagnitude.le

/-- `frac <- fsub(a, ofInt(m))` is the fraction (44_scanner.md R195). -/
theorem fsub_magnitude (hv : isFinite f v) (h : EligibleMagnitude (units f v / unitScale f) o) {p : Nat}
    (hp : p < infMagnitude f) (hfrac : patternUnits f p = units f v % unitScale f) :
    fsub f (fabs f v) (ofInt f (units f v / unitScale f : Nat)) = withSign f false p := by
  obtain ⟨hfinite, hunits, hsign⟩ := ofInt_natCast_exact (h.le_significand f)
  refine fadd_exact ((isFinite_fabs f v).mpr hv) ((isFinite_fneg f _).mpr hfinite) (isNegative_fabs f v) hp ?_
  have hdiv := Nat.div_add_mod' (units f v) (unitScale f)
  rw [signedUnits_fneg, signedUnits_of_nonneg (isNegative_fabs f v), signedUnits_of_nonneg hsign, units_fabs, hunits, hfrac]
  omega

/-- EVERYTHING `rewriteBit` DOES to an eligible number: its sign stays, and bit `o` of its magnitude is written in its units
(44_scanner.md R195(b) to (d)). -/
theorem rewriteBit_eq (h : isEligible f v o = true) (bit : Bool) :
    ∃ p, p < infMagnitude f ∧ patternUnits f p = withBit (units f v) (o + f.unitExp) bit ∧
      rewriteBit f v o bit = withSign f (isNegative f v) p := by
  obtain ⟨hv, helig⟩ := isEligible_iff.mp h
  obtain ⟨p, hp, hbit⟩ := exists_withBit_pattern helig bit
  obtain ⟨pf, hpf, hfrac⟩ := exists_fraction_pattern helig
  obtain ⟨hfinite, hunits, hsign⟩ := ofInt_natCast_exact ((helig.withBit bit).le_significand f)
  have hfracSign := isNegative_withSign f false (hpf.trans (infMagnitude_lt f))
  have hfracBits := magBits_withSign f false (hpf.trans (infMagnitude_lt f))
  have hfracUnits : units f (withSign f false pf) = units f v % unitScale f := by rw [units_eq, hfracBits, hfrac]
  have hsum : fadd f (ofInt f (withBit (units f v / unitScale f) o bit : Nat)) (withSign f false pf) = withSign f false p := by
    refine fadd_exact hfinite ((isFinite_iff f _).mpr (by rwa [hfracBits])) hsign hp ?_
    rw [signedUnits_of_nonneg hsign, signedUnits_of_nonneg hfracSign, hunits, hfracUnits, hbit,
      ← withBit_units_div, ← withBit_units_mod f _ o bit, ← Nat.cast_add, Nat.div_add_mod']
  refine ⟨p, hp, hbit, ?_⟩
  rw [rewriteBit, magnitude_of_isEligible h, fsub_magnitude hv helig hpf hfrac, hsum]
  rfl

/-- A datum of the format is its sign and the bits below it. -/
theorem withSign_magBits (h : v.toNat < 2 ^ (f.signAt + 1)) : withSign f (isNegative f v) (magBits f v) = v := by
  have hdiv : v.toNat / 2 ^ f.signAt < 2 := by
    rw [Nat.div_lt_iff_lt_mul (Nat.two_pow_pos _), Nat.mul_comm, ← Nat.pow_succ]
    exact h
  have hsign : (isNegative f v).toNat = v.toNat / 2 ^ f.signAt := by
    rw [isNegative, BitVec.getLsbD, Nat.toNat_testBit, Nat.mod_eq_of_lt hdiv]
  apply BitVec.eq_of_toNat_eq
  rw [toNat_withSign f _ (magBits_lt f v), hsign, magBits, Nat.div_add_mod]

/-- Settles O33: each clause is a fact about one bit written in the units. -/
theorem writtenBitReadsBackExactly : Obligations.WrittenBitReadsBackExactly := by
  intro f v o bit _ h
  obtain ⟨-, helig⟩ := isEligible_iff.mp h
  obtain ⟨p, hp, hpattern, hword⟩ := rewriteBit_eq h bit
  have hbits : magBits f (rewriteBit f v o bit) = p := by
    rw [hword, magBits_withSign f _ (hp.trans (infMagnitude_lt f))]
  have hunits : units f (rewriteBit f v o bit) = withBit (units f v) (o + f.unitExp) bit := by
    rw [units_eq, hbits, hpattern]
  have hmagnitude : units f (rewriteBit f v o bit) / unitScale f = withBit (units f v / unitScale f) o bit := by
    rw [hunits, withBit_units_div]
  have hkeeps : isEligible f (rewriteBit f v o bit) o = true := by
    rw [isEligible_iff, isFinite_iff, hbits, hmagnitude]
    exact ⟨hp, helig.withBit bit⟩
  refine ⟨hkeeps, ?_, ?_, ?_, fun j hj => ?_, fun hsame hdatum => ?_⟩
  · rw [carriedBit_of_isEligible hkeeps, hmagnitude, testBit_withBit, if_pos rfl]
  · rw [hword, isNegative_withSign f _ (hp.trans (infMagnitude_lt f))]
  · rw [hunits, withBit_units_mod]
  · rw [hmagnitude, testBit_withBit, if_neg hj]
  · rw [carriedBit_of_isEligible h, unitScale, Nat.testBit_div_two_pow] at hsame
    rw [withBit_of_testBit hsame, units_eq] at hpattern
    rw [hword, (patternUnits_strictMono f).injective hpattern, withSign_magBits hdatum]

end Sys2Proof.Machine
end

section
/-! PROOFS. A scan that finds nothing (41_order_predicate.md R141; 44_scanner.md R191 to R193, R199). -/

namespace Sys2Proof.Machine

variable {s t : State} {o : Nat}

/-- An `advance` that yields nothing leaves EOM set (44_scanner.md R192(b)). -/
theorem State.advance_none_eom (h : s.advance = (t, none)) : t.eom = true := by
  rcases s.advance_cases with ⟨heom, hres⟩ | ⟨-, -, hres⟩ | ⟨-, -, -, ⟨bx, by', -, hres⟩ | ⟨last, -, hres⟩⟩ <;>
    rw [h] at hres <;> cases hres
  · exact heom
  · rfl
  · rfl

/-- With nothing eligible the scan runs to the end of the medium. -/
theorem State.advance_of_not_eligible (h : ∀ a, s.eligibleAt s.order.toNat a = false) :
    ∃ t, s.advance = (t, none) ∧ t.eom = true := by
  rcases hadv : s.advance with ⟨t, _ | a⟩
  · exact ⟨t, rfl, State.advance_none_eom hadv⟩
  · obtain ⟨-, -, -, helig, -⟩ := State.advance_some hadv
    exact absurd helig (by rw [h a]; exact Bool.false_ne_true)

theorem State.setOrder_order_toNat (ho : o ≤ s.orderMax) : (s.setOrder o).order.toNat = o := by
  have hlt : s.orderMax < 2 ^ 3 := s.params.orderMax.isLt
  rw [State.setOrder_order, BitVec.toNat_ofNat, Nat.mod_eq_of_lt (by omega)]

theorem exec_scanInit (ho : o ≤ s.orderMax) : exec (.scanInit o) s = .next (((s.setOrder o).rewind).ret 0) :=
  congrArg _ (if_pos ((s.orderLegal_iff o).mpr ho))

theorem exec_scanCount (h : s.Inv) (ho : o ≤ s.orderMax) :
    exec (.scanCount o) s =
      .next (s.ret (natWord ((dcAddrs s.width.toNat s.height.toNat).countP (s.eligibleAt o)))) := by
  have harm : exec (.scanCount o) s = execScanCount o s := rfl
  rw [harm, execScanCount, State.onPlane_of_fit _ h.dims, if_pos ((s.orderLegal_iff o).mpr ho)]

theorem exec_scanAdv_of_none (h : s.Inv) (hadv : s.advance = (t, none)) :
    exec .scanAdv s = .next (t.raise .endOfMedium 0) := by
  obtain ⟨hdims, hcursor⟩ := h.planeLegal
  have harm : exec .scanAdv s = execScanAdv s := rfl
  rw [harm, execScanAdv, State.onScan_of_fit _ hdims hcursor, hadv]

/-- Settles O55: from order 3 on no number is eligible, so nothing is counted and the first advance finds nothing. -/
theorem ordersAboveTwoYieldNothing : Obligations.OrdersAboveTwoYieldNothing := by
  intro o s hs hthree ho
  have hnone : ∀ (u : State) a, u.eligibleAt o a = false := fun u a => isEligible_of_three_le hthree
  have hinit := exec_scanInit ho
  have horder : (((s.setOrder o).rewind).ret 0).order.toNat = o := State.setOrder_order_toNat ho
  obtain ⟨t, hadv, heom⟩ := State.advance_of_not_eligible (s := ((s.setOrder o).rewind).ret 0) (by rw [horder]; exact hnone _)
  refine ⟨?_, _, runCommands_pair hinit (exec_scanAdv_of_none ((exec_effect hinit).keeps_inv hs) hadv), rfl, heom⟩
  rw [exec_scanCount hs ho, List.countP_eq_zero.mpr fun a _ => by simp [hnone s a]]
  rfl

end Sys2Proof.Machine
end

section
/-! PROOFS. The bit sequences: what a command leaves of the sequence it names and of everything else (42_bit_sequence.md). -/

namespace Sys2Proof.Machine

variable {s t : State} {q : SeqId}

/-- A command that completes with RESULT 0 left sequence `q` with the bits `get` and the length `len`, and changed nothing else
(42_bit_sequence.md R150, R160; 60_exceptions.md R243). -/
def State.SeqWritten (s : State) (q : SeqId) (get : Nat → Bool) (len : Nat) (t : State) : Prop :=
  (∀ j, (t.seq q).get j = get j) ∧ (t.seq q).length = len ∧ (∀ p, p ≠ q → t.seq p = s.seq p) ∧
    t = { s with seq0 := t.seq0, seq1 := t.seq1, err := .ok, result := 0 }

theorem State.setSeq_ret_seqWritten (s : State) (q : SeqId) (v : BitSeq) :
    s.SeqWritten q v.get v.length ((s.setSeq q v).ret 0) := by
  refine ⟨fun j => ?_, ?_, fun p hp => ?_, ?_⟩
  · rw [State.ret_seq, State.seq_setSeq_same]
  · rw [State.ret_seq, State.seq_setSeq_same]
  · rw [State.ret_seq, State.seq_setSeq_other s v hp]
  · cases q <;> rfl

/-- The state a completed write leaves, its bits and its length put in another form. -/
theorem State.SeqWritten.congr {get get' : Nat → Bool} {len len' : Nat} (h : s.SeqWritten q get len t)
    (hget : ∀ j, get j = get' j) (hlen : len = len') : s.SeqWritten q get' len' t := by
  obtain rfl : get = get' := funext hget
  exact hlen ▸ h

/-! The mutating commands that write a range (42_bit_sequence.md R150). -/

theorem State.mutate_of_overflow {lo n : Nat} (v : Nat) (h : s.bitCap < lo + n) :
    s.mutate q lo n v = s.raise .bufOverflow 0 := if_pos h

theorem State.mutate_seqWritten {lo n : Nat} (v : Nat) (h : lo + n ≤ s.bitCap) :
    s.SeqWritten q (fun j => if lo ≤ j ∧ j < lo + n then v.testBit (j - lo) else (s.seq q).get j)
      (if n = 0 then (s.seq q).length else max (s.seq q).length (lo + n)) (s.mutate q lo n v) := by
  have hput : s.mutate q lo n v = (s.setSeq q ((s.seq q).put lo n v)).ret 0 := if_neg (by omega)
  have hcap := s.bitCap_lt
  rw [hput]
  exact (s.setSeq_ret_seqWritten q _).congr (BitSeq.get_put _ lo n v) (BitSeq.length_put _ lo n v (by omega))

/-- One bit written and touched (42_bit_sequence.md R153, R154, R157). -/
theorem State.mutate_bit_seqWritten {i : Nat} (b : Bool) (h : i < s.bitCap) :
    s.SeqWritten q (fun j => if j = i then b else (s.seq q).get j) (max (s.seq q).length (i + 1))
      (s.mutate q i 1 b.toNat) := by
  refine (State.mutate_seqWritten b.toNat h).congr (fun j => ?_) (if_neg Nat.one_ne_zero)
  by_cases hj : j = i
  · subst hj
    cases b <;> simp
  · rw [if_neg (by omega), if_neg hj]

/-! The half-open ranges (42_bit_sequence.md R155, R156). -/

theorem State.mutateRange_of_gt {lo hi : Nat} (bit : Bool) (h : hi < lo) :
    s.mutateRange q lo hi bit = s.raise .invalidArgument 0 := if_pos h

theorem State.mutateRange_of_le {lo hi : Nat} (bit : Bool) (h : lo ≤ hi) :
    s.mutateRange q lo hi bit = s.mutate q lo (hi - lo) (if bit then 2 ^ (hi - lo) - 1 else 0) := if_neg (by omega)

theorem State.mutateRange_of_overflow {lo hi : Nat} (bit : Bool) (h : lo ≤ hi) (hcap : s.bitCap < hi) :
    s.mutateRange q lo hi bit = s.raise .bufOverflow 0 := by
  rw [State.mutateRange_of_le bit h, State.mutate_of_overflow _ (by omega)]

/-- Inside a range of `n` indices every bit of the value a range command writes is the bit the command sets. -/
theorem testBit_rangeValue (bit : Bool) {n k : Nat} (hk : k < n) : (if bit then 2 ^ n - 1 else 0).testBit k = bit := by
  cases bit <;> simp [hk]

theorem State.mutateRange_seqWritten {lo hi : Nat} (bit : Bool) (h : lo ≤ hi) (hcap : hi ≤ s.bitCap) :
    s.SeqWritten q (fun j => if lo ≤ j ∧ j < hi then bit else (s.seq q).get j)
      (if lo < hi then max (s.seq q).length hi else (s.seq q).length) (s.mutateRange q lo hi bit) := by
  have hhi : lo + (hi - lo) = hi := by omega
  rw [State.mutateRange_of_le bit h]
  refine (State.mutate_seqWritten _ (by omega)).congr (fun j => ?_) ?_
  · rw [hhi]
    by_cases hj : lo ≤ j ∧ j < hi
    · rw [if_pos hj, if_pos hj, testBit_rangeValue bit (by omega)]
    · rw [if_neg hj, if_neg hj]
  · rw [hhi]
    by_cases hlt : lo < hi
    · rw [if_neg (by omega), if_pos hlt]
    · rw [if_pos (by omega), if_neg hlt]

/-- A sequence appended at the end of `q`: the snapshot `v` is taken before the write (42_bit_sequence.md R158). -/
theorem State.mutate_append_seqWritten (v : BitSeq) (h : (s.seq q).length + v.length ≤ s.bitCap) :
    s.SeqWritten q
      (fun j => if (s.seq q).length ≤ j ∧ j < (s.seq q).length + v.length then v.get (j - (s.seq q).length)
        else (s.seq q).get j)
      ((s.seq q).length + v.length) (s.mutate q (s.seq q).length v.length v.bits) := by
  refine (State.mutate_seqWritten v.bits h).congr (fun _ => rfl) ?_
  split <;> omega

end Sys2Proof.Machine
end

section
/-! PROOFS. The BB commands (42_bit_sequence.md R150 to R160). -/

namespace Sys2Proof.Machine

section

variable (s : State) (q : SeqId)

theorem exec_bbNew : exec (.bbNew q) s = .next ((s.setSeq q BitSeq.empty).ret 0) := rfl

theorem exec_bbGet (i : Nat) :
    exec (.bbGet q i) s = .next (s.ret (bitWord (decide (i < s.bitCap) && (s.seq q).get i))) := rfl

theorem exec_bbLen : exec (.bbLen q) s = .next (s.ret (natWord (s.seq q).length)) := rfl

theorem exec_bbSet (i : Nat) (b : Bool) : exec (.bbSet q i b) s = .next (s.mutate q i 1 b.toNat) := rfl

theorem exec_bbClr (i : Nat) : exec (.bbClr q i) s = .next (s.mutate q i 1 false.toNat) := rfl

theorem exec_bbSetr (lo hi : Nat) : exec (.bbSetr q lo hi) s = .next (s.mutateRange q lo hi true) := rfl

theorem exec_bbClrr (lo hi : Nat) : exec (.bbClrr q lo hi) s = .next (s.mutateRange q lo hi false) := rfl

theorem exec_bbApp (b : Bool) : exec (.bbApp q b) s = .next (s.mutate q (s.seq q).length 1 b.toNat) := rfl

theorem exec_bbAppall (d : SeqId) :
    exec (.bbAppall d q) s = .next (s.mutate d (s.seq d).length (s.seq q).length (s.seq q).bits) := rfl

end

theorem toNat_bitWord (b : Bool) : (bitWord b).toNat = b.toNat := by cases b <;> rfl

theorem BitSeq.toNat_natWord_length (v : BitSeq) : (natWord v.length).toNat = v.len.toNat := by
  have hlt : v.len.toNat < 2 ^ 24 := v.len.isLt
  rw [natWord, BitVec.toNat_ofNat, BitSeq.length]
  exact Nat.mod_eq_of_lt (by omega)

/-- Settles O34: the empty sequence stands in place of the one named. -/
theorem bbNewEmptiesOneSequence : Obligations.BbNewEmptiesOneSequence := fun q s =>
  ⟨_, exec_bbNew s q, (s.setSeq_ret_seqWritten q BitSeq.empty).congr BitSeq.get_empty BitSeq.length_empty⟩

/-- Settles O35: each command returns a word and writes nothing; at or beyond `BITCAP` that word is 0. -/
theorem bbGetAndLenOnlyRead : Obligations.BbGetAndLenOnlyRead := by
  intro q i s
  refine ⟨⟨_, exec_bbGet s q i, rfl, ?_⟩, ⟨_, exec_bbLen s q, rfl, BitSeq.toNat_natWord_length _⟩⟩
  rw [State.ret_result, toNat_bitWord]
  by_cases hi : i < s.bitCap <;> simp [hi]

/-- Settles O36: both commands write the one bit at `i`, or find it beyond `BITCAP`. -/
theorem bbSetAndClrWriteOneBit : Obligations.BbSetAndClrWriteOneBit := by
  intro q i b s
  refine ⟨fun hi => ⟨⟨_, exec_bbSet s q i b, State.mutate_bit_seqWritten b hi⟩,
    ⟨_, exec_bbClr s q i, State.mutate_bit_seqWritten false hi⟩⟩, fun hi => ?_⟩
  have hover : s.bitCap < i + 1 := by omega
  rw [exec_bbSet, exec_bbClr, State.mutate_of_overflow _ hover, State.mutate_of_overflow _ hover]
  exact ⟨rfl, rfl⟩

/-- Settles O37: the range commands by the order of their checks. -/
theorem bbRangesWriteHalfOpenRange : Obligations.BbRangesWriteHalfOpenRange := by
  intro q lo hi s
  refine ⟨fun hle hcap => ⟨⟨_, exec_bbSetr s q lo hi, State.mutateRange_seqWritten true hle hcap⟩,
    ⟨_, exec_bbClrr s q lo hi, State.mutateRange_seqWritten false hle hcap⟩⟩, fun hgt => ?_, fun hle hcap => ?_⟩
  · rw [exec_bbSetr, exec_bbClrr, State.mutateRange_of_gt _ hgt, State.mutateRange_of_gt _ hgt]
    exact ⟨rfl, rfl⟩
  · rw [exec_bbSetr, exec_bbClrr, State.mutateRange_of_overflow _ hle hcap, State.mutateRange_of_overflow _ hle hcap]
    exact ⟨rfl, rfl⟩

/-- Settles O38: one bit written at the old length. -/
theorem bbAppAppendsOneBit : Obligations.BbAppAppendsOneBit := by
  intro q b s
  refine ⟨fun hlt => ⟨_, exec_bbApp s q b, ?_⟩, fun hfull => ?_⟩
  · exact (State.mutate_bit_seqWritten b hlt).congr (fun _ => rfl) (by omega)
  · rw [exec_bbApp, State.mutate_of_overflow _ (by omega)]
    rfl

/-- Settles O39: the source, as it was, appended to the destination. -/
theorem bbAppallAppendsSnapshot : Obligations.BbAppallAppendsSnapshot := by
  intro d q s
  refine ⟨fun hcap => ⟨_, exec_bbAppall s q d, State.mutate_append_seqWritten _ hcap⟩, fun hover => ?_⟩
  rw [exec_bbAppall, State.mutate_of_overflow _ hover]
  rfl

end Sys2Proof.Machine
end

section
/-! PROOFS. Lengths only grow but by BB.NEW (42_bit_sequence.md R150). -/

namespace Sys2Proof.Machine

section

variable {s t : State} {i : Instr} {q : SeqId}

theorem BitSeq.length_lt (v : BitSeq) : v.length < 2 ^ 24 := v.len.isLt

theorem BitSeq.length_le_put (v : BitSeq) {lo n : Nat} (bits : Nat) (h : lo + n < 2 ^ 24) :
    v.length ≤ (v.put lo n bits).length := by
  rw [BitSeq.length_put v lo n bits h]
  split <;> omega

theorem BitSeq.length_put_end (v : BitSeq) {n : Nat} (bits : Nat) (h : v.length + n < 2 ^ 24) :
    (v.put v.length n bits).length = v.length + n := by
  rw [BitSeq.length_put v v.length n bits h]
  split <;> omega

/-- A write to one sequence shortens none if it does not shorten the one it names. -/
theorem State.length_le_setSeq {p : SeqId} {v : BitSeq} (h : (s.seq p).length ≤ v.length) :
    (s.seq q).length ≤ ((s.setSeq p v).seq q).length := by
  by_cases hpq : q = p
  · subst hpq
    rwa [State.seq_setSeq_same]
  · rw [State.seq_setSeq_other s v hpq]

/-- The loop of SCAN.RDBUF appends to the sequence it fills, as long as a 24-bit length holds what there is room for
(44_scanner.md R198). -/
theorem State.length_le_readSeq (p : SeqId) (room n : Nat) (h : (s.seq p).length + room < 2 ^ 24) :
    (s.seq p).length ≤ ((State.readSeq p room n s).seq p).length := by
  induction room generalizing n s with
  | zero => simp [State.readSeq]
  | succ room ih =>
    have hkeeps := s.advance_keeps
    rcases hadv : s.advance with ⟨t, _ | a⟩ <;> simp only [hadv] at hkeeps <;>
      obtain ⟨-, -, -, hseq, -⟩ := hkeeps <;> simp only [State.readSeq, hadv] <;> rw [← hseq] at h ⊢
    · rw [State.ret_seq]
    · have happend := (t.seq p).length_put_end (n := 1) (carriedBit t.num (t.planeAt a) t.order.toNat).toNat (by omega)
      rw [← State.seq_setSeq_same t p (BitSeq.put _ _ _ _)] at happend
      have hrest := ih (n + 1) (s := t.setSeq p _) (by rw [happend]; omega)
      omega

/-- 42_bit_sequence.md R150, by the kind of a command's effect. -/
theorem CommandEffect.length_le (h : CommandEffect s i t) (hi : i ≠ .bbNew q) :
    (s.seq q).length ≤ (t.seq q).length := by
  have hcap := s.bitCap_lt
  cases h with
  | seqEmptied p =>
    have hqp : q ≠ p := fun hqp => hi (by rw [hqp])
    rw [State.ret_seq, State.seq_setSeq_other s _ hqp]
  | seqMutated i p lo n v =>
    rw [State.ret_seq]
    exact State.length_le_setSeq (BitSeq.length_le_put _ v (by omega))
  | bitsRead p =>
    by_cases hqp : q = p
    · have hlt := (s.seq p).length_lt
      subst hqp
      exact State.length_le_readSeq q _ _ (by omega)
    · rw [State.readSeq_seq_other hqp]
  | _ => simp

end

/-- Settles O20: only the effect of BB.NEW shortens a sequence, the one it names. -/
theorem lengthsDecreaseOnlyByBbNew : Obligations.LengthsDecreaseOnlyByBbNew :=
  fun _ _ _ h _ hi => (exec_effect h).length_le hi

end Sys2Proof.Machine
end

section
/-! PROOFS. The Hamming codec for every `G` and `H`: the bits of a codeword, the syndrome as a linear map, and the branches
of the decoder (43_hamming.md R170 to R174). -/

namespace Sys2Proof.Machine

variable (p : Params)

/-! The encoder (43_hamming.md R173). -/

theorem testBit_encodeNibble (n j : Nat) : (encodeNibble p n).testBit j = (decide (j < 7) && codeBit p n j) :=
  testBit_natOfBits _ _ _

theorem encodeNibble_lt (n : Nat) : encodeNibble p n < 2 ^ 7 := natOfBits_lt _ _

/-! The syndrome (43_hamming.md R172, R174). -/

/-- A sum over GF(2) taken from the left is the parity of the number of its ones. -/
theorem foldl_xor_eq_parity (f : Nat → Bool) (l : List Nat) (acc : Bool) :
    l.foldl (fun acc j => acc ^^ f j) acc = (acc ^^ decide (l.countP f % 2 = 1)) := by
  induction l generalizing acc with
  | nil => simp
  | cons j l ih =>
    rw [List.foldl_cons, ih, List.countP_cons]
    by_cases hj : f j = true
    · have hflip : decide ((l.countP f + 1) % 2 = 1) = !decide (l.countP f % 2 = 1) := by
        rw [← decide_not]
        exact decide_eq_decide.2 (by omega)
      simp [hj, hflip]
    · simp [hj]

theorem syndromeBit_eq_parityOf (w : Nat) (i : Fin 3) : syndromeBit p w i = parityOf p w i := by
  rw [syndromeBit, foldl_xor_eq_parity, Bool.false_xor, parityOf]

theorem foldl_xor_add (f g : Nat → Bool) (l : List Nat) (a b : Bool) :
    l.foldl (fun acc j => acc ^^ (f j ^^ g j)) (a ^^ b) =
      (l.foldl (fun acc j => acc ^^ f j) a ^^ l.foldl (fun acc j => acc ^^ g j) b) := by
  induction l generalizing a b with
  | nil => rfl
  | cons j l ih =>
    have hswap : (a ^^ b ^^ (f j ^^ g j)) = ((a ^^ f j) ^^ (b ^^ g j)) := by
      rw [Bool.xor_assoc, Bool.xor_assoc, Bool.xor_left_comm b]
    rw [List.foldl_cons, hswap, ih, List.foldl_cons, List.foldl_cons]

/-- The syndrome is linear. -/
theorem syndromeBit_xor (v w : Nat) (i : Fin 3) :
    syndromeBit p (v ^^^ w) i = (syndromeBit p v i ^^ syndromeBit p w i) := by
  have hterm : ∀ j, (p.hBit i j && (v ^^^ w).testBit j) = ((p.hBit i j && v.testBit j) ^^ (p.hBit i j && w.testBit j)) :=
    fun j => by rw [Nat.testBit_xor, Bool.and_xor_distrib_left]
  simp only [syndromeBit, hterm]
  exact foldl_xor_add _ _ _ false false

/-- The syndrome of a single one is the column it stands in. -/
theorem syndromeBit_two_pow {j : Nat} (hj : j < 7) (i : Fin 3) : syndromeBit p (2 ^ j) i = p.hBit i j := by
  simp only [syndromeBit, Nat.testBit_two_pow]
  interval_cases j <;> simp [List.range_succ]

/-- Flipping bit `j` of a word adds column `j` to its syndrome (43_hamming.md R175(b)). -/
theorem syndromeBit_flip (w : Nat) {j : Nat} (hj : j < 7) (i : Fin 3) :
    syndromeBit p (w ^^^ 2 ^ j) i = (syndromeBit p w i ^^ p.hBit i j) := by
  rw [syndromeBit_xor, syndromeBit_two_pow p hj]

/-! The branches of the decoder (43_hamming.md R174). -/

variable {p} {w : Nat}

theorem columnMatches_iff {j : Nat} : columnMatches p w j = true ↔ ∀ i, p.hBit i j = syndromeBit p w i := by
  simp [columnMatches, Fin.forall_fin_succ, and_assoc]

theorem not_columnMatches_iff {j : Nat} :
    (!columnMatches p w j) = true ↔ ∃ i, p.hBit i j ≠ syndromeBit p w i := by
  rw [Bool.not_eq_true', ← Bool.not_eq_true, columnMatches_iff, not_forall]

theorem decodeNibble_of_syndrome_zero (h : ∀ i, syndromeBit p w i = false) : decodeNibble p w = some (w % 16) := by
  simp [decodeNibble, h]

/-- A word with an error is searched for in the columns of `H`. -/
theorem decodeNibble_of_syndrome (h : ∃ i, syndromeBit p w i = true) :
    decodeNibble p w = ((List.range 7).find? (columnMatches p w)).map fun j => (w ^^^ 2 ^ j) % 16 := by
  refine if_neg fun hzero => ?_
  obtain ⟨i, hi⟩ := h
  simp only [Bool.and_eq_true, Bool.not_eq_true', and_assoc] at hzero
  obtain ⟨h0, h1, h2⟩ := hzero
  have hall : ∀ i, syndromeBit p w i = false := by simp [Fin.forall_fin_succ, h0, h1, h2]
  simp [hall i] at hi

theorem decodeNibble_of_first_column {j : Nat} (h : ∃ i, syndromeBit p w i = true) (hj : j < 7)
    (hcol : ∀ i, p.hBit i j = syndromeBit p w i) (hfirst : ∀ k, k < j → ∃ i, p.hBit i k ≠ syndromeBit p w i) :
    decodeNibble p w = some ((w ^^^ 2 ^ j) % 16) := by
  have hfind : (List.range 7).find? (columnMatches p w) = some j :=
    List.find?_range_eq_some.2
      ⟨columnMatches_iff.2 hcol, List.mem_range.2 hj, fun k hk => not_columnMatches_iff.2 (hfirst k hk)⟩
  rw [decodeNibble_of_syndrome h, hfind, Option.map_some]

theorem decodeNibble_of_no_column (h : ∃ i, syndromeBit p w i = true)
    (hnone : ∀ j, j < 7 → ∃ i, p.hBit i j ≠ syndromeBit p w i) : decodeNibble p w = none := by
  have hfind : (List.range 7).find? (columnMatches p w) = none :=
    List.find?_range_eq_none.2 fun j hj => not_columnMatches_iff.2 (hnone j hj)
  rw [decodeNibble_of_syndrome h, hfind, Option.map_none]

/-- What decodes is a nibble. -/
theorem decodeNibble_lt {n : Nat} (h : decodeNibble p w = some n) : n < 16 := by
  unfold decodeNibble at h
  split at h
  · cases h
    exact Nat.mod_lt _ (by decide)
  · obtain ⟨j, -, rfl⟩ := Option.map_eq_some_iff.1 h
    exact Nat.mod_lt _ (by decide)

end Sys2Proof.Machine
end

section
/-! PROOFS. The code of the default matrices: its codewords are the words of syndrome 0, and every other word has exactly one
column of `H` for its syndrome (43_hamming.md R171, R172, R175). -/

namespace Sys2Proof.Machine

variable {p : Params}

/-- The default `G` is systematic: the low four bits of a codeword are the nibble (43_hamming.md R171, R172). -/
theorem codeBit_data (hG : p.hamG = defaultHamG) (n : Nat) {j : Nat} (hj : j < 4) : codeBit p n j = n.testBit j := by
  interval_cases j <;> simp [codeBit, Params.gBit, hG, defaultHamG]

/-- The three parities of the default `G` (43_hamming.md R172). -/
theorem codeBit_parity (hG : p.hamG = defaultHamG) (n : Nat) :
    codeBit p n 4 = (n.testBit 0 ^^ n.testBit 1 ^^ n.testBit 3) ∧
    codeBit p n 5 = (n.testBit 0 ^^ n.testBit 2 ^^ n.testBit 3) ∧
    codeBit p n 6 = (n.testBit 1 ^^ n.testBit 2 ^^ n.testBit 3) := by
  refine ⟨?_, ?_, ?_⟩ <;> simp [codeBit, Params.gBit, hG, defaultHamG]

/-- The syndrome of the default `H` (43_hamming.md R172). -/
theorem syndromeBit_parity (hH : p.hamH = defaultHamH) (w : Nat) :
    syndromeBit p w 0 = (w.testBit 0 ^^ w.testBit 1 ^^ w.testBit 3 ^^ w.testBit 4) ∧
    syndromeBit p w 1 = (w.testBit 0 ^^ w.testBit 2 ^^ w.testBit 3 ^^ w.testBit 5) ∧
    syndromeBit p w 2 = (w.testBit 1 ^^ w.testBit 2 ^^ w.testBit 3 ^^ w.testBit 6) := by
  refine ⟨?_, ?_, ?_⟩ <;> simp [syndromeBit, List.range_succ, Params.hBit, hH, defaultHamH]

theorem hBit_default (hH : p.hamH = defaultHamH) (i : Fin 3) (j : Nat) : p.hBit i j = defaultParams.hBit i j := by
  simp only [Params.hBit, hH]
  rfl

/-- The columns of the default `H` are nonzero (43_hamming.md R171). -/
theorem hBit_column_ne_zero (hH : p.hamH = defaultHamH) {j : Nat} (hj : j < 7) : ∃ i, p.hBit i j = true := by
  have hclosed : ∀ j < 7, ∃ i, defaultParams.hBit i j = true := by decide
  simpa only [hBit_default hH] using hclosed j hj

/-- The columns of the default `H` differ (43_hamming.md R171). -/
theorem hBit_column_inj (hH : p.hamH = defaultHamH) {j k : Nat} (hj : j < 7) (hk : k < 7)
    (h : ∀ i, p.hBit i j = p.hBit i k) : j = k := by
  have hclosed : ∀ j < 7, ∀ k < 7, (∀ i, defaultParams.hBit i j = defaultParams.hBit i k) → j = k := by decide
  exact hclosed j hj k hk (by simpa only [hBit_default hH] using h)

/-- Every nonzero syndrome is a column of the default `H` (43_hamming.md R171, R174). -/
theorem exists_column (hH : p.hamH = defaultHamH) (s : Fin 3 → Bool) (hs : ∃ i, s i = true) :
    ∃ j < 7, ∀ i, p.hBit i j = s i := by
  have hclosed : ∀ s : Fin 3 → Bool, (∃ i, s i = true) → ∃ j < 7, ∀ i, defaultParams.hBit i j = s i := by decide
  simpa only [hBit_default hH] using hclosed s hs

theorem encodeNibble_mod (hG : p.hamG = defaultHamG) {n : Nat} (hn : n < 16) : encodeNibble p n % 16 = n := by
  refine Nat.eq_of_testBit_eq fun j => ?_
  rw [show 16 = 2 ^ 4 from rfl, Nat.testBit_mod_two_pow, testBit_encodeNibble]
  by_cases hj : j < 4
  · simp [hj, show j < 7 by omega, codeBit_data hG n hj]
  · simp [hj, Laws.testBit_above (n := 4) hn (Nat.not_lt.1 hj)]

/-- A codeword has syndrome 0: `H·Gᵀ = 0` (43_hamming.md R171). -/
theorem syndromeBit_encodeNibble (h : DefaultCode p) (n : Nat) (i : Fin 3) : syndromeBit p (encodeNibble p n) i = false := by
  obtain ⟨hG, hH⟩ := h
  obtain ⟨hs0, hs1, hs2⟩ := syndromeBit_parity hH (encodeNibble p n)
  obtain ⟨hc4, hc5, hc6⟩ := codeBit_parity hG n
  have hdata := fun j hj => codeBit_data hG n (j := j) hj
  simp only [testBit_encodeNibble, hc4, hc5, hc6, hdata, Nat.reduceLT, decide_true, Bool.true_and] at hs0 hs1 hs2
  fin_cases i
  · exact hs0.trans (by simp)
  · exact hs1.trans (by simp)
  · exact hs2.trans (by simp)

/-- A word of syndrome 0 is the codeword of its low four bits. -/
theorem encodeNibble_of_syndrome_zero (h : DefaultCode p) {w : Nat} (hw : w < 2 ^ 7)
    (hs : ∀ i, syndromeBit p w i = false) : encodeNibble p (w % 16) = w := by
  obtain ⟨hG, hH⟩ := h
  obtain ⟨hs0, hs1, hs2⟩ := syndromeBit_parity hH w
  obtain ⟨hc4, hc5, hc6⟩ := codeBit_parity hG (w % 16)
  have hlow : ∀ j < 4, (w % 16).testBit j = w.testBit j := fun j hj => by
    rw [show 16 = 2 ^ 4 from rfl, Nat.testBit_mod_two_pow, decide_eq_true hj, Bool.true_and]
  simp only [hlow, hs, Nat.reduceLT] at hs0 hs1 hs2 hc4 hc5 hc6
  refine Nat.eq_of_testBit_eq fun j => ?_
  rw [testBit_encodeNibble]
  by_cases hj4 : j < 4
  · simp [show j < 7 by omega, codeBit_data hG _ hj4, hlow j hj4]
  · by_cases hj7 : j < 7
    · interval_cases j
      · exact hc4.trans (bne_eq_false_iff_eq.1 hs0.symm)
      · exact hc5.trans (bne_eq_false_iff_eq.1 hs1.symm)
      · exact hc6.trans (bne_eq_false_iff_eq.1 hs2.symm)
    · simp [hj7, Laws.testBit_above hw (Nat.not_lt.1 hj7)]

/-- With the default `H` the decoder flips the bit of the one column that is the syndrome. -/
theorem decodeNibble_of_column (hH : p.hamH = defaultHamH) {w j : Nat} (hj : j < 7)
    (hcol : ∀ i, p.hBit i j = syndromeBit p w i) : decodeNibble p w = some ((w ^^^ 2 ^ j) % 16) := by
  obtain ⟨i, hi⟩ := hBit_column_ne_zero hH hj
  refine decodeNibble_of_first_column ⟨i, hcol i ▸ hi⟩ hj hcol fun k hk => ?_
  by_contra hsame
  push Not at hsame
  exact hk.ne (hBit_column_inj hH (by omega) hj fun i => (hsame i).trans (hcol i).symm)

/-- 43_hamming.md R175(a). -/
theorem decodeNibble_encodeNibble (h : DefaultCode p) {n : Nat} (hn : n < 16) :
    decodeNibble p (encodeNibble p n) = some n := by
  rw [decodeNibble_of_syndrome_zero (syndromeBit_encodeNibble h n), encodeNibble_mod h.1 hn]

/-- 43_hamming.md R175(b). -/
theorem decodeNibble_encodeNibble_flip (h : DefaultCode p) {n j : Nat} (hn : n < 16) (hj : j < 7) :
    decodeNibble p (encodeNibble p n ^^^ 2 ^ j) = some n := by
  have hcol : ∀ i, p.hBit i j = syndromeBit p (encodeNibble p n ^^^ 2 ^ j) i := fun i => by
    rw [syndromeBit_flip p _ hj, syndromeBit_encodeNibble h, Bool.false_xor]
  rw [decodeNibble_of_column h.2 hj hcol, Nat.xor_xor_cancel_right, encodeNibble_mod h.1 hn]

/-- The code is perfect: every word decodes, to the nibble of a codeword at most one flip away (43_hamming.md R174, R175). -/
theorem exists_decodeNibble_nearest (h : DefaultCode p) {w : Nat} (hw : w < 2 ^ 7) :
    ∃ n, decodeNibble p w = some n ∧ (encodeNibble p n = w ∨ ∃ j, j < 7 ∧ encodeNibble p n = w ^^^ 2 ^ j) := by
  by_cases hs : ∀ i, syndromeBit p w i = false
  · exact ⟨_, decodeNibble_of_syndrome_zero hs, .inl (encodeNibble_of_syndrome_zero h hw hs)⟩
  · obtain ⟨j, hj, hcol⟩ := exists_column h.2 (syndromeBit p w) (by simpa using hs)
    have hfixed : ∀ i, syndromeBit p (w ^^^ 2 ^ j) i = false := fun i => by
      rw [syndromeBit_flip p w hj, hcol i, Bool.xor_self]
    have hlt : w ^^^ 2 ^ j < 2 ^ 7 := Nat.xor_lt_two_pow hw (Nat.pow_lt_pow_right (by decide) hj)
    exact ⟨_, decodeNibble_of_column h.2 hj hcol, .inr ⟨j, hj, encodeNibble_of_syndrome_zero h hlt hfixed⟩⟩

/-- Two flips at different places are not undone by at most one more. -/
theorem two_flips_ne (c : Nat) {a b : Nat} (hab : a ≠ b) :
    c ≠ c ^^^ 2 ^ a ^^^ 2 ^ b ∧ ∀ j, c ≠ c ^^^ 2 ^ a ^^^ 2 ^ b ^^^ 2 ^ j := by
  refine ⟨fun h => ?_, fun j h => ?_⟩
  · have hbit := congrArg (Nat.testBit · a) h
    simp [hab.symm] at hbit
  · by_cases hja : j = a
    · have hbit := congrArg (Nat.testBit · b) h
      simp [hab, hja] at hbit
    · have hbit := congrArg (Nat.testBit · a) h
      simp [hab.symm, hja] at hbit

end Sys2Proof.Machine
end

section
/-! PROOFS. The HAM commands (43_hamming.md R173 to R179). -/

namespace Sys2Proof.Machine

section

variable {s : State} {q : SeqId}

theorem exec_hamEnc (n : Nat) (s : State) : exec (.hamEnc n) s = .next (s.ret (natWord (encodeNibble s.params n))) := rfl

theorem exec_hamDec (w : Nat) (s : State) : exec (.hamDec w) s = execHamDec w s := rfl

theorem exec_hamDec_of_some {w n : Nat} (h : decodeNibble s.params w = some n) :
    exec (.hamDec w) s = .next (s.ret (natWord n)) := by
  simp only [exec_hamDec, execHamDec, h]

theorem exec_hamDec_of_none {w : Nat} (h : decodeNibble s.params w = none) :
    exec (.hamDec w) s = .next (s.raise .decodeError 0) := by
  simp only [exec_hamDec, execHamDec, h]

theorem toNat_natWord_encodeNibble (p : Params) (n : Nat) : (natWord (encodeNibble p n)).toNat = encodeNibble p n := by
  have hlt := encodeNibble_lt p n
  rw [natWord, BitVec.toNat_ofNat]
  exact Nat.mod_eq_of_lt (by omega)

/-! HAM.PUTB (43_hamming.md R176). -/

theorem exec_hamPutb (byte : Nat) :
    exec (.hamPutb q byte) s = .next (s.mutate q (s.seq q).length 14 (byteCode s.params byte)) := rfl

/-- The first seven of the 14 bits are the low nibble's codeword, the other seven the high nibble's. -/
theorem testBit_byteCode (p : Params) (byte j : Nat) :
    (byteCode p byte).testBit j =
      if j < 7 then (encodeNibble p (byte % 16)).testBit j else (encodeNibble p (byte / 16)).testBit (j - 7) := by
  rw [byteCode, Nat.add_comm, Nat.mul_comm, Nat.testBit_two_pow_mul_add _ (encodeNibble_lt p _)]

theorem State.mutate_byteCode_seqWritten (byte : Nat) (hcap : (s.seq q).length + 14 ≤ s.bitCap) :
    s.SeqWritten q
      (fun j => if (s.seq q).length ≤ j ∧ j < (s.seq q).length + 14 then
        (byteCode s.params byte).testBit (j - (s.seq q).length) else (s.seq q).get j)
      ((s.seq q).length + 14) (s.mutate q (s.seq q).length 14 (byteCode s.params byte)) :=
  (State.mutate_seqWritten _ hcap).congr (fun _ => rfl) (by simp)

/-! HAM.GETB (43_hamming.md R177). -/

theorem BitSeq.window_lt (v : BitSeq) (lo n : Nat) : v.window lo n < 2 ^ n := natOfBits_lt _ _

/-- A window holds the integer whose bits stand in it. -/
theorem BitSeq.window_eq {v : BitSeq} {lo n c : Nat} (hc : c < 2 ^ n) (h : ∀ j, j < n → v.get (lo + j) = c.testBit j) :
    v.window lo n = c := by
  refine Nat.eq_of_testBit_eq fun j => ?_
  rw [BitSeq.testBit_window]
  by_cases hj : j < n
  · rw [decide_eq_true hj, Bool.true_and, h j hj]
  · rw [decide_eq_false hj, Bool.false_and, Laws.testBit_above hc (by omega)]

theorem exec_hamGetb (k : Nat) : exec (.hamGetb q k) s = execHamGetb q k s := rfl

theorem exec_hamGetb_of_incomplete {k : Nat} (h : (s.seq q).length < 14 * k + 14) :
    exec (.hamGetb q k) s = .next (s.raise .invalidArgument 0) := by
  simp only [exec_hamGetb, execHamGetb, h, if_true]

theorem exec_hamGetb_of_some {k lo hi : Nat} (h : 14 * k + 14 ≤ (s.seq q).length)
    (hlo : decodeNibble s.params ((s.seq q).window (14 * k) 7) = some lo)
    (hhi : decodeNibble s.params ((s.seq q).window (14 * k + 7) 7) = some hi) :
    exec (.hamGetb q k) s = .next (s.ret (natWord (lo + 16 * hi))) := by
  have hor : lo ||| hi * 2 ^ 4 = lo + 16 * hi := by
    rw [Nat.lor_comm, Nat.mul_comm, ← Nat.two_pow_add_eq_or_of_lt (decodeNibble_lt hlo), Nat.add_comm]
  simp only [exec_hamGetb, execHamGetb, Nat.not_lt.2 h, if_false, hlo, hhi, hor]

theorem exec_hamGetb_of_none {k : Nat} (h : 14 * k + 14 ≤ (s.seq q).length)
    (hnone : decodeNibble s.params ((s.seq q).window (14 * k) 7) = none ∨
      decodeNibble s.params ((s.seq q).window (14 * k + 7) 7) = none) :
    exec (.hamGetb q k) s = .next (s.raise .decodeError 0) := by
  simp only [exec_hamGetb, execHamGetb, Nat.not_lt.2 h, if_false]
  rcases hnone with hlo | hhi
  · simp only [hlo]
  · cases decodeNibble s.params ((s.seq q).window (14 * k) 7) <;> simp only [hhi]

end

/-- Settles O41: a flipped bit's column is the syndrome, so the decoder flips it back. -/
theorem hamDecCorrectsOneFlip : Obligations.HamDecCorrectsOneFlip := by
  intro n s t hcode hn ht
  obtain rfl := eq_of_next ht
  rw [State.ret_result, toNat_natWord_encodeNibble]
  exact ⟨exec_hamDec_of_some (decodeNibble_encodeNibble hcode hn),
    fun p hp => exec_hamDec_of_some (decodeNibble_encodeNibble_flip hcode hn hp)⟩

/-- Settles O42: the branches of the decoder, and the perfect code of the default matrices. -/
theorem hamDecFindsNearestCodeword : Obligations.HamDecFindsNearestCodeword := by
  intro w s hw
  simp only [← syndromeBit_eq_parityOf]
  refine ⟨fun hzero => exec_hamDec_of_some (decodeNibble_of_syndrome_zero hzero),
    fun j hs hj hcol hfirst => exec_hamDec_of_some (decodeNibble_of_first_column hs hj hcol hfirst),
    fun hs hnone => exec_hamDec_of_none (decodeNibble_of_no_column hs hnone), fun hcode => ?_⟩
  obtain ⟨n, hdec, hnear⟩ := exists_decodeNibble_nearest hcode hw
  exact ⟨n, decodeNibble_lt hdec, exec_hamDec_of_some hdec, hnear⟩

/-- Settles O43: the decoder answers with a codeword at most one flip from the word, and the one sent is two flips away. -/
theorem hamDecTwoFlipsAreSilentlyWrong : Obligations.HamDecTwoFlipsAreSilentlyWrong := by
  intro n p r s hcode hn hpr hr
  have hflip : ∀ {j}, j < 7 → 2 ^ j < 2 ^ 7 := fun hj => Nat.pow_lt_pow_right (by decide) hj
  have hw : encodeNibble s.params n ^^^ 2 ^ p ^^^ 2 ^ r < 2 ^ 7 :=
    Nat.xor_lt_two_pow (Nat.xor_lt_two_pow (encodeNibble_lt _ n) (hflip (hpr.trans hr))) (hflip hr)
  obtain ⟨m, hdec, hnear⟩ := exists_decodeNibble_nearest hcode hw
  obtain ⟨hzero, hone⟩ := two_flips_ne (encodeNibble s.params n) hpr.ne
  refine ⟨m, decodeNibble_lt hdec, ?_, exec_hamDec_of_some hdec⟩
  rintro rfl
  rcases hnear with hsame | ⟨j, -, hsame⟩
  · exact hzero hsame
  · exact hone j hsame

/-- Settles O44: one write of 14 bits at the old length. -/
theorem hamPutbAppendsTwoCodewords : Obligations.HamPutbAppendsTwoCodewords := by
  intro q byte s _
  refine ⟨fun hcap => ?_, fun hover => ?_⟩
  · obtain ⟨hget, hlen, hother, hframe⟩ := State.mutate_byteCode_seqWritten byte hcap
    beta_reduce at hget
    refine ⟨_, exec_hamPutb byte, fun j hj => ?_, fun j hj => ?_, fun j hj => ?_, hlen, hother, hframe⟩
    · rw [hget, if_pos (by omega), Nat.add_sub_cancel_left, testBit_byteCode, if_pos hj]
    · rw [hget, if_pos (by omega), Nat.add_assoc, Nat.add_sub_cancel_left, testBit_byteCode, if_neg (by omega),
        Nat.add_sub_cancel_left]
    · rw [hget, if_neg (by omega)]
  · rw [exec_hamPutb, State.mutate_of_overflow _ hover]
    rfl

/-- Settles O45: the branches of HAM.GETB; with the default matrices every half decodes. -/
theorem hamGetbDecodesCompleteWindows : Obligations.HamGetbDecodesCompleteWindows := by
  intro q k s
  refine ⟨fun hfull => ⟨fun lo hi hlo hhi => ?_, exec_hamGetb_of_none hfull, fun hcode => ?_⟩,
    exec_hamGetb_of_incomplete⟩
  · exact ⟨decodeNibble_lt hlo, decodeNibble_lt hhi, exec_hamGetb_of_some hfull hlo hhi⟩
  · obtain ⟨lo, hlo, -⟩ := exists_decodeNibble_nearest hcode ((s.seq q).window_lt (14 * k) 7)
    obtain ⟨hi, hhi, -⟩ := exists_decodeNibble_nearest hcode ((s.seq q).window_lt (14 * k + 7) 7)
    exact ⟨lo, hi, hlo, hhi⟩

/-- Settles O46: the window holds the two codewords HAM.PUTB appended, and each decodes to its nibble. -/
theorem putByteReadsBackThroughItsWindow : Obligations.PutByteReadsBackThroughItsWindow := by
  intro q k byte s hcode hbyte hlen hcap
  obtain ⟨hput, -⟩ := hamPutbAppendsTwoCodewords q byte s hbyte
  obtain ⟨t, hexec, hlow, hhigh, -, hlen', -, hframe⟩ := hput (by omega)
  rw [hlen] at hlow hhigh hlen'
  have hparams : t.params = s.params := by rw [hframe]
  have hlo : decodeNibble t.params ((t.seq q).window (14 * k) 7) = some (byte % 16) := by
    rw [BitSeq.window_eq (encodeNibble_lt _ _) hlow, hparams]
    exact decodeNibble_encodeNibble hcode (by omega)
  have hhi : decodeNibble t.params ((t.seq q).window (14 * k + 7) 7) = some (byte / 16) := by
    rw [BitSeq.window_eq (encodeNibble_lt _ _) hhigh, hparams]
    exact decodeNibble_encodeNibble hcode (by omega)
  refine ⟨_, runCommands_pair hexec (exec_hamGetb_of_some hlen'.ge hlo hhi), rfl, ?_⟩
  rw [State.ret_result, natWord, Nat.mod_add_div]

/-- Settles O40: RESULT holds the bits of the codeword, the data and the parities of the default `G`. -/
theorem hamEncGivesParities : Obligations.HamEncGivesParities := by
  intro n s _
  have hbit : ∀ j, (natWord (encodeNibble s.params n)).getLsbD j = (decide (j < 7) && codeBit s.params n j) := fun j => by
    rw [← BitVec.testBit_toNat, toNat_natWord_encodeNibble, testBit_encodeNibble]
  refine ⟨_, exec_hamEnc n s, rfl, fun j hj => ?_, fun hG => ?_, fun j hj => ?_⟩
  · rw [State.ret_result, hbit, decide_eq_true hj, Bool.true_and, codeBit]
  · obtain ⟨hc4, hc5, hc6⟩ := codeBit_parity hG n
    simp only [State.ret_result, hbit]
    exact ⟨fun j hj => by rw [codeBit_data hG n hj, decide_eq_true (by omega), Bool.true_and], hc4, hc5, hc6⟩
  · rw [State.ret_result, hbit, decide_eq_false (by omega), Bool.false_and]

end Sys2Proof.Machine
end

section
/-! PROOFS. The DC words of the full blocks, in the scanner's order (44_scanner.md R199, R200). -/

namespace Sys2Proof.Machine

variable {width height bx by' a k : Nat}

/-- Entry `i` of row `j` of a table listed row by row. -/
theorem getElem?_flatMap_range {α : Type} (g : Nat → Nat → α) {rows cols i j : Nat} (hj : j < rows) (hi : i < cols) :
    ((List.range rows).flatMap fun j => (List.range cols).map (g j))[j * cols + i]? = some (g j i) := by
  induction rows with
  | zero => exact absurd hj (Nat.not_lt_zero j)
  | succ rows ih =>
    have hlen : ((List.range rows).flatMap fun j => (List.range cols).map (g j)).length = rows * cols := by simp
    rw [List.range_succ, List.flatMap_append, List.flatMap_singleton]
    rcases Nat.lt_succ_iff_lt_or_eq.mp hj with hlt | rfl
    · have hrows := Nat.mul_le_mul_right cols (Nat.succ_le_of_lt hlt)
      rw [Nat.succ_mul] at hrows
      rw [List.getElem?_append_left (by omega), ih hlt]
    · rw [List.getElem?_append_right (by omega), hlen, Nat.add_sub_cancel_left, List.getElem?_map,
        List.getElem?_range hi, Option.map_some]

theorem length_dcAddrs (width height : Nat) : (dcAddrs width height).length = height / 8 * (width / 8) := by
  simp [dcAddrs]

namespace FullBlock

/-- The address of a block's DC word gives the block's origin back (20_memory.md R59). -/
theorem planeAddr_origin (h : FullBlock width height bx by') :
    planeAddr width by' bx % width = bx ∧ planeAddr width by' bx / width = by' := by
  have hx : bx < width := Nat.lt_of_lt_of_le (Nat.lt_add_of_pos_right (by decide)) h.xFits
  rw [planeAddr, Nat.mul_comm, Nat.mul_add_mod, Nat.mul_add_div (Nat.zero_lt_of_lt hx), Nat.mod_eq_of_lt hx,
    Nat.div_eq_of_lt hx]
  exact ⟨rfl, Nat.add_zero _⟩

/-- A full block's DC word stands behind those of the blocks before it. -/
theorem getElem?_dcAddrs (h : FullBlock width height bx by') :
    (dcAddrs width height)[blocksBefore width bx by']? = some (planeAddr width by' bx) := by
  obtain ⟨hx, hy, hxw, hyh⟩ := h
  have hentry := getElem?_flatMap_range (fun jy ix => planeAddr width (8 * jy) (8 * ix)) (rows := height / 8)
    (cols := width / 8) (j := by' / 8) (i := bx / 8) (by omega) (by omega)
  rwa [Nat.mul_div_cancel' (Nat.dvd_of_mod_eq_zero hx), Nat.mul_div_cancel' (Nat.dvd_of_mod_eq_zero hy)] at hentry

theorem drop_dcAddrs (h : FullBlock width height bx by') :
    (dcAddrs width height).drop (blocksBefore width bx by') =
      planeAddr width by' bx :: (dcAddrs width height).drop (blocksBefore width bx by' + 1) := by
  obtain ⟨hlt, hentry⟩ := List.getElem?_eq_some_iff.mp h.getElem?_dcAddrs
  rw [List.drop_eq_getElem_cons hlt, hentry]

end FullBlock

/-- There is a full block behind any number of them that is less than all (44_scanner.md R192). -/
theorem exists_fullBlock (hk : k < height / 8 * (width / 8)) :
    ∃ bx by', FullBlock width height bx by' ∧ blocksBefore width bx by' = k := by
  have hcols : 0 < width / 8 := Nat.pos_of_mul_pos_left (Nat.zero_lt_of_lt hk)
  have hrow : k / (width / 8) < height / 8 := (Nat.div_lt_iff_lt_mul hcols).mpr hk
  have hcol := Nat.mod_lt k hcols
  refine ⟨8 * (k % (width / 8)), 8 * (k / (width / 8)),
    ⟨Nat.mul_mod_right .., Nat.mul_mod_right .., by omega, by omega⟩, ?_⟩
  rw [blocksBefore, Nat.mul_div_cancel_left _ (by decide), Nat.mul_div_cancel_left _ (by decide), Nat.div_add_mod']

/-- The word at `a` is number `k` of the enumeration: `a` is the address of the block that has `k` full blocks before it. -/
theorem getElem?_dcAddrs_iff :
    (dcAddrs width height)[k]? = some a ↔
      FullBlock width height (a % width) (a / width) ∧ blocksBefore width (a % width) (a / width) = k := by
  constructor
  · intro h
    obtain ⟨hlt, -⟩ := List.getElem?_eq_some_iff.mp h
    obtain ⟨bx, by', hblock, hcount⟩ := exists_fullBlock (length_dcAddrs width height ▸ hlt)
    have ha : planeAddr width by' bx = a := Option.some.inj (hblock.getElem?_dcAddrs.symm.trans (hcount.symm ▸ h))
    obtain ⟨hx, hy⟩ := hblock.planeAddr_origin
    rw [← ha, hx, hy]
    exact ⟨hblock, hcount⟩
  · rintro ⟨hblock, rfl⟩
    rw [hblock.getElem?_dcAddrs, planeAddr, Nat.div_add_mod']

theorem mem_dcAddrs_iff : a ∈ dcAddrs width height ↔ FullBlock width height (a % width) (a / width) := by
  rw [List.mem_iff_getElem?]
  simp only [getElem?_dcAddrs_iff, exists_and_left, exists_eq', and_true]

/-- A DC word lies in the plane (20_memory.md R58). -/
theorem lt_of_mem_dcAddrs (h : a ∈ dcAddrs width height) : a < width * height := by
  have hlt := (mem_dcAddrs_iff.mp h).planeAddr_lt
  rwa [planeAddr, Nat.div_add_mod'] at hlt

/-- No word is enumerated twice: a word has one block, and a block one number. -/
theorem nodup_dcAddrs (width height : Nat) : (dcAddrs width height).Nodup := by
  rw [List.nodup_iff_getElem?_ne_getElem?]
  intro i j hij hj heq
  obtain ⟨a, ha⟩ : ∃ a, (dcAddrs width height)[j]? = some a := ⟨_, List.getElem?_eq_getElem hj⟩
  obtain ⟨-, hi⟩ := getElem?_dcAddrs_iff.mp (heq.trans ha)
  obtain ⟨-, hj⟩ := getElem?_dcAddrs_iff.mp ha
  omega

end Sys2Proof.Machine
end

section
/-! PROOFS. `advance` finds the first position of the enumeration, and what is left of it behind that one
(44_scanner.md R192, R200). -/

namespace Sys2Proof.Machine

/-- How a walk ends that finds this DC word first. -/
def ScanEnd.ofFirst (width height : Nat) : Option Nat → ScanEnd
  | some a => .accepted (a % width) (a / width)
  | none => .ranOut (8 * (height / 8))

/-- With fuel for the blocks that are left, the walk finds the first eligible one of the DC words that are ahead
(44_scanner.md R192; log 15). -/
theorem scanBlocks_eq_ofFirst {width height : Nat} {eligible : Nat → Bool} {fuel : Nat} {ahead : Bool} {bx by' : Nat}
    (hblock : FullBlock width height bx by') (hfuel : height / 8 * (width / 8) ≤ blocksBefore width bx by' + fuel) :
    scanBlocks width height eligible fuel ahead bx by' =
      .ofFirst width height
        (((dcAddrs width height).drop (blocksBefore width bx by' + (!ahead).toNat)).find? eligible) := by
  induction fuel generalizing ahead bx by' with
  | zero =>
    have hlt := hblock.blocksBefore_lt
    omega
  | succ fuel ih =>
    have hbehind : (if width < bx + 8 + 8 then
          if height < by' + 8 + 8 then ScanEnd.ranOut (by' + 8)
          else scanBlocks width height eligible fuel true 0 (by' + 8)
        else scanBlocks width height eligible fuel true (bx + 8) by') =
        .ofFirst width height (((dcAddrs width height).drop (blocksBefore width bx by' + 1)).find? eligible) := by
      split
      · rename_i hrow
        split
        · rename_i hcol
          obtain ⟨hx, hy, hxw, hyh⟩ := hblock
          have hlast : height / 8 = by' / 8 + 1 := by omega
          have hall : height / 8 * (width / 8) ≤ blocksBefore width bx by' + 1 := by
            rw [hlast, Nat.succ_mul, blocksBefore]
            omega
          rw [List.drop_eq_nil_of_le (by rwa [length_dcAddrs])]
          exact congrArg ScanEnd.ranOut (by omega)
        · rename_i hcol
          obtain ⟨hnext, hcount⟩ := hblock.nextRow hrow hcol
          rw [ih hnext (by omega), hcount]
          rfl
      · rename_i hrow
        obtain ⟨hnext, hcount⟩ := hblock.nextInRow hrow
        rw [ih hnext (by omega), hcount]
        rfl
    obtain ⟨hx, hy⟩ := hblock.planeAddr_origin
    simp only [scanBlocks]
    rw [hbehind]
    cases ahead with
    | false => rfl
    | true =>
      have hhere : blocksBefore width bx by' + (!true).toNat = blocksBefore width bx by' := rfl
      rw [hhere, hblock.drop_dcAddrs, List.find?_cons]
      cases hel : eligible (planeAddr width by' bx) with
      | false => rfl
      | true => simp [ScanEnd.ofFirst, hx, hy]

variable {s : State} {a : Nat} {rest : List Nat}

/-! The positions ahead. -/

theorem State.mem_ahead (h : a ∈ s.ahead) : a ∈ dcAddrs s.width.toNat s.height.toNat := by
  unfold State.ahead at h
  split at h
  · exact absurd h List.not_mem_nil
  · exact List.mem_of_mem_drop h

theorem State.mem_eligibleAhead (h : a ∈ s.eligibleAhead) :
    a ∈ dcAddrs s.width.toNat s.height.toNat ∧ s.eligibleAt s.order.toNat a = true := by
  obtain ⟨hahead, helig⟩ := List.mem_filter.mp h
  exact ⟨State.mem_ahead hahead, helig⟩

theorem State.nodup_ahead (s : State) : s.ahead.Nodup := by
  unfold State.ahead
  split
  · exact List.nodup_nil
  · exact (nodup_dcAddrs _ _).sublist (List.drop_sublist _ _)

theorem State.nodup_eligibleAhead (s : State) : s.eligibleAhead.Nodup := s.nodup_ahead.filter _

/-- There are no more positions than full blocks. -/
theorem State.length_eligibleAhead_le (s : State) :
    s.eligibleAhead.length ≤ s.height.toNat / 8 * (s.width.toNat / 8) := by
  refine (List.length_filter_le _ _).trans ?_
  unfold State.ahead
  split
  · exact Nat.zero_le _
  · rw [List.length_drop, length_dcAddrs]
    exact Nat.sub_le _ _

/-- Where a position is ahead the scan can move: EOM is 0 and there is a full block (44_scanner.md R192(a)). -/
theorem State.canMove_of_eligibleAhead (h : s.eligibleAhead ≠ []) :
    s.eom = false ∧ 8 ≤ s.width.toNat ∧ 8 ≤ s.height.toNat := by
  obtain ⟨a, ha⟩ := List.exists_mem_of_ne_nil _ h
  have heom : s.eom = false := by
    rw [← Bool.not_eq_true]
    intro heom
    exact h (by rw [State.eligibleAhead, State.ahead, if_pos heom, List.filter_nil])
  obtain ⟨-, -, hxw, hyh⟩ := mem_dcAddrs_iff.mp (State.mem_eligibleAhead ha).1
  exact ⟨heom, (Nat.le_add_left 8 _).trans hxw, (Nat.le_add_left 8 _).trans hyh⟩

/-- The scan at its end, where it could move before (44_scanner.md R192(b)). -/
theorem State.atEnd_of_canMove (heom : s.eom = false) (hw : 8 ≤ s.width.toNat) (hh : 8 ≤ s.height.toNat) :
    s.atEnd = (s.setCursor 0 (8 * (s.height.toNat / 8)) 0).setEom :=
  if_neg (by simp only [heom, Bool.false_eq_true, false_or]; omega)

/-- The end of the scan moves the cursor and EOM only (44_scanner.md R192(b), (e)). -/
theorem State.atEnd_keeps (s : State) :
    s.atEnd.plane = s.plane ∧ s.atEnd.enc = s.enc ∧ s.atEnd.chg = s.chg ∧ (∀ q, s.atEnd.seq q = s.seq q) := by
  unfold State.atEnd
  split <;> exact ⟨rfl, rfl, rfl, fun q => by cases q <;> rfl⟩

theorem State.planeAt_atEnd (s : State) (a : Nat) : s.atEnd.planeAt a = s.planeAt a := by
  unfold State.atEnd
  split <;> rfl

/-- What `advance` makes of the first position ahead, if there is one. -/
def State.advanceTo (s : State) : Option Nat → State × Option Nat
  | some a => (s.pastWord a, some a)
  | none => (s.atEnd, none)

/-- The loop of `advance` is the enumeration (44_scanner.md R192, R200). -/
theorem State.Inv.advance_eq (h : s.Inv) : s.advance = s.advanceTo s.eligibleAhead.head? := by
  rcases s.advance_cases with ⟨heom, hadv⟩ | ⟨heom, hsmall, hadv⟩ | ⟨heom, hw, hh, hwalk⟩
  · have hstay : s.atEnd = s := by
      rw [State.atEnd, if_pos (.inl heom), State.setEom, ← heom]
    rw [hadv, State.eligibleAhead, State.ahead, if_pos heom, List.filter_nil, List.head?_nil, State.advanceTo, hstay]
  · have hnone : dcAddrs s.width.toNat s.height.toNat = [] := by
      rw [← List.length_eq_zero_iff, length_dcAddrs, Nat.mul_eq_zero]
      omega
    rw [hadv, State.eligibleAhead, State.ahead, hnone, List.drop_nil, ite_self, List.filter_nil, List.head?_nil,
      State.advanceTo, State.atEnd, if_pos (.inr hsmall)]
  · have hblock := h.cursor_fullBlock heom hw hh
    have hfirst := scanBlocks_eq_ofFirst (eligible := s.eligibleAt s.order.toNat) (fuel := s.blockCount)
      (ahead := s.dcAhead) hblock (by rw [State.blockCount, Nat.mul_comm]; omega)
    rw [← h.scanX_toNat, ← State.blocksPassed_eq] at hfirst
    have hpositions : s.eligibleAhead.head? =
        ((dcAddrs s.width.toNat s.height.toNat).drop s.blocksPassed).find? (s.eligibleAt s.order.toNat) := by
      rw [State.eligibleAhead, State.ahead, heom, if_neg Bool.false_ne_true, List.head?_filter]
    rw [← hpositions] at hfirst
    rcases hwalk with ⟨bx, by', hend, hadv⟩ | ⟨last, hend, hadv⟩ <;> rw [hadv] <;> rw [hend] at hfirst
    · cases hhead : s.eligibleAhead.head? with
      | none => rw [hhead] at hfirst; cases hfirst
      | some a =>
        rw [hhead] at hfirst
        cases hfirst
        simp only [State.advanceTo, State.pastWord, planeAddr, Nat.div_add_mod']
    · cases hhead : s.eligibleAhead.head? with
      | none =>
        rw [hhead] at hfirst
        cases hfirst
        rw [State.advanceTo, State.atEnd_of_canMove heom hw hh]
      | some a => rw [hhead] at hfirst; cases hfirst

theorem State.Inv.advance_of_cons (h : s.Inv) (hE : s.eligibleAhead = a :: rest) : s.advance = (s.pastWord a, some a) := by
  rw [h.advance_eq, hE]
  rfl

theorem State.Inv.advance_of_nil (h : s.Inv) (hE : s.eligibleAhead = []) : s.advance = (s.atEnd, none) := by
  rw [h.advance_eq, hE]
  rfl

theorem State.Inv.pastWord (h : s.Inv) (hE : s.eligibleAhead = a :: rest) : (s.pastWord a).Inv :=
  (h.advance_some (h.advance_of_cons hE)).1

theorem State.Inv.atEnd (h : s.Inv) (hE : s.eligibleAhead = []) : s.atEnd.Inv := h.advance_none (h.advance_of_nil hE)

/-- Past the first position, the DC words ahead are those behind it in the enumeration (44_scanner.md R200). -/
theorem State.exists_ahead_split (hE : s.eligibleAhead = a :: rest) :
    ∃ skipped, s.ahead = skipped ++ a :: (s.pastWord a).ahead ∧ (s.pastWord a).eligibleAhead = rest := by
  obtain ⟨heom, -, -⟩ := State.canMove_of_eligibleAhead (hE ▸ List.cons_ne_nil a rest)
  have hahead : s.ahead = (dcAddrs s.width.toNat s.height.toNat).drop s.blocksPassed := by
    rw [State.ahead, heom, if_neg Bool.false_ne_true]
  obtain ⟨skipped, behind, hsplit, -, -, hrest⟩ := List.filter_eq_cons_iff.mp hE
  have hindex : (dcAddrs s.width.toNat s.height.toNat)[s.blocksPassed + skipped.length]? = some a := by
    rw [← List.getElem?_drop, ← hahead, hsplit]
    simp
  obtain ⟨hblock, hcount⟩ := getElem?_dcAddrs_iff.mp hindex
  have hbehind : (s.pastWord a).ahead = behind := by
    have hpassed : (s.pastWord a).blocksPassed = s.blocksPassed + skipped.length + 1 := by
      rw [State.pastWord, hblock.setCursor_blocksPassed, hcount]
    have hdrop : (s.pastWord a).ahead =
        (dcAddrs s.width.toNat s.height.toNat).drop (s.pastWord a).blocksPassed := if_neg (by simp [State.pastWord, heom])
    rw [hdrop, hpassed, Nat.add_assoc, ← List.drop_drop, ← hahead, hsplit]
    simp
  exact ⟨skipped, hbehind.symm ▸ hsplit, by rw [← hrest, ← hbehind]; rfl⟩

theorem State.eligibleAhead_pastWord (hE : s.eligibleAhead = a :: rest) : (s.pastWord a).eligibleAhead = rest := by
  obtain ⟨-, -, hrest⟩ := State.exists_ahead_split hE
  exact hrest

/-- No position comes back (44_scanner.md R192(d)). -/
theorem State.not_mem_ahead_pastWord (hE : s.eligibleAhead = a :: rest) : a ∉ (s.pastWord a).ahead := by
  obtain ⟨skipped, hsplit, -⟩ := State.exists_ahead_split hE
  have hnodup := s.nodup_ahead
  rw [hsplit] at hnodup
  exact (List.nodup_cons.mp hnodup.of_append_right).1

/-! How a command ends does not move the scan (60_exceptions.md R243). -/

@[simp] theorem State.eligibleAhead_ret (s : State) (v : Word) : (s.ret v).eligibleAhead = s.eligibleAhead := rfl

@[simp] theorem State.eligibleAhead_raise (s : State) (k : ErrCode) (r : Word) :
    (s.raise k r).eligibleAhead = s.eligibleAhead := rfl

@[simp] theorem State.eligibleAhead_atEnd (s : State) : s.atEnd.eligibleAhead = [] := by
  have heom : s.atEnd.eom = true := by
    unfold State.atEnd
    split <;> rfl
  rw [State.eligibleAhead, State.ahead, if_pos heom, List.filter_nil]

/-- The scan never goes back (44_scanner.md R192(d), R203). -/
theorem State.Inv.blocksPassed_atEnd (h : s.Inv) : s.blocksPassed ≤ s.atEnd.blocksPassed := by
  by_cases hstop : s.eom = true ∨ s.width.toNat < 8 ∨ s.height.toNat < 8
  · rw [State.atEnd, if_pos hstop]
    exact le_rfl
  · simp only [not_or, Bool.not_eq_true, Nat.not_lt] at hstop
    obtain ⟨heom, hw, hh⟩ := hstop
    have hlt := (h.cursor_fullBlock heom hw hh).blocksBefore_lt
    have hx := Bool.toNat_le (!s.dcAhead)
    have hrow : (BitVec.ofNat 16 (8 * (s.height.toNat / 8))).toNat = 8 * (s.height.toNat / 8) := by
      rw [BitVec.toNat_ofNat]
      exact Nat.mod_eq_of_lt (by omega)
    have hall : s.atEnd.blocksPassed = s.height.toNat / 8 * (s.width.toNat / 8) := by
      rw [State.atEnd_of_canMove heom hw hh]
      simp [State.blocksPassed, hrow]
    rw [hall, State.blocksPassed_eq, h.scanX_toNat]
    omega

end Sys2Proof.Machine
end

section
/-! PROOFS. The commands that only move the scan: SCAN.INIT, SCAN.ADV, SCAN.RDBIT, and SCAN.COUNT (44_scanner.md
R191 to R194, R199). -/

namespace Sys2Proof.Machine

variable {s t : State} {o a : Nat} {rest : List Nat} {i : Instr} {answer : State → Nat → Word}

/-- Settles O47: the order is checked before any write. -/
theorem scanInitSetsOrderAndRewinds : Obligations.ScanInitSetsOrderAndRewinds := by
  refine fun o s => ⟨fun ho => ⟨_, exec_scanInit ho, State.setOrder_order_toNat ho, rfl⟩, fun habove => ?_⟩
  exact congrArg _ (if_neg fun hlegal => Nat.not_le.mpr habove ((s.orderLegal_iff o).mp hlegal))

/-- The state SCAN.INIT leaves (44_scanner.md R191). -/
def State.scanStart (s : State) (o : Nat) : State := ((s.setOrder o).rewind).ret 0

theorem exec_scanInit_scanStart (ho : o ≤ s.orderMax) : exec (.scanInit o) s = .next (s.scanStart o) := exec_scanInit ho

theorem State.Inv.scanStart (h : s.Inv) (ho : o ≤ s.orderMax) : (s.scanStart o).Inv := ((h.setOrder ho).rewind).ret 0

theorem State.scanStart_order (ho : o ≤ s.orderMax) : (s.scanStart o).order.toNat = o := State.setOrder_order_toNat ho

/-- From SCAN.INIT on all positions at its order are ahead (44_scanner.md R200). -/
theorem State.eligibleAhead_scanStart (ho : o ≤ s.orderMax) : (s.scanStart o).eligibleAhead = s.positions o := by
  have hpassed : (s.scanStart o).blocksPassed = 0 := by simp [State.scanStart, State.blocksPassed]
  have hahead : (s.scanStart o).ahead = dcAddrs s.width.toNat s.height.toNat := by
    have hall : (s.scanStart o).ahead =
        (dcAddrs s.width.toNat s.height.toNat).drop (s.scanStart o).blocksPassed := if_neg Bool.false_ne_true
    rw [hall, hpassed, List.drop_zero]
  rw [State.eligibleAhead, hahead, State.scanStart_order ho]
  rfl

theorem State.Inv.onScan (h : s.Inv) (u : State) : s.onScan u = .next u := by
  obtain ⟨hdims, hcursor⟩ := h.planeLegal
  exact State.onScan_of_fit u hdims hcursor

/-- EVERYTHING A COMMAND DOES that only moves the scan: it answers with `answer` at the next position and leaves the
cursor just past it, or raises EndOfMedium with the scan at its end (44_scanner.md R193, R194). -/
def AnswersPositions (i : Instr) (answer : State → Nat → Word) : Prop :=
  ∀ s : State, s.Inv →
    (∀ a rest, s.eligibleAhead = a :: rest → exec i s = .next ((s.pastWord a).ret (answer s a))) ∧
    (s.eligibleAhead = [] → exec i s = .next (s.atEnd.raise .endOfMedium 0))

/-- SCAN.ADV answers with the address (44_scanner.md R193). -/
theorem scanAdv_answersPositions : AnswersPositions .scanAdv fun _ a => natWord a := by
  have harm : ∀ s, exec .scanAdv s = execScanAdv s := fun _ => rfl
  refine fun s h => ⟨fun a rest hE => ?_, fun hE => exec_scanAdv_of_none h (h.advance_of_nil hE)⟩
  rw [harm, execScanAdv, h.onScan, h.advance_of_cons hE]

/-- SCAN.RDBIT answers with the bit (44_scanner.md R194). -/
theorem scanRdbit_answersPositions :
    AnswersPositions .scanRdbit fun s a => bitWord (carriedBit s.num (s.planeAt a) s.order.toNat) := by
  have harm : ∀ s, exec .scanRdbit s = execScanRdbit s := fun _ => rfl
  refine fun s h => ⟨fun a rest hE => ?_, fun hE => ?_⟩
  · rw [harm, execScanRdbit, h.onScan, h.advance_of_cons hE]
    rfl
  · rw [harm, execScanRdbit, h.onScan, h.advance_of_nil hE]

/-- Settles O48: the word accepted is the first position ahead. -/
theorem scanAdvAcceptsNextEligible : Obligations.ScanAdvAcceptsNextEligible := by
  intro s h
  obtain ⟨hnext, hend⟩ := scanAdv_answersPositions s h
  refine ⟨fun a ha => ?_, hend⟩
  obtain ⟨rest, hE⟩ := List.head?_eq_some_iff.mp ha
  exact ⟨hnext a rest hE, lt_of_mem_dcAddrs (State.mem_eligibleAhead (List.mem_of_mem_head? ha)).1⟩

/-- Settles O49: an eligible word's magnitude is exact, so its bit is read off the units. -/
theorem scanRdbitReadsNextPosition : Obligations.ScanRdbitReadsNextPosition := by
  intro s h
  obtain ⟨hnext, hend⟩ := scanRdbit_answersPositions s h
  refine ⟨fun a ha => ?_, hend⟩
  obtain ⟨rest, hE⟩ := List.head?_eq_some_iff.mp ha
  have hbit := carriedBit_of_isEligible (State.mem_eligibleAhead (List.mem_of_mem_head? ha)).2
  rw [hnext a rest hE, ← hbit]
  rfl

theorem runCommands_cons (h : exec i s = .next t) (is : List Instr) : runCommands (i :: is) s = runCommands is t := by
  rw [runCommands, h]

/-- The command that only moves the scan, issued over and over: it answers position after position, then raises
EndOfMedium each time; the plane stays (44_scanner.md R192, R200). -/
theorem AnswersPositions.run_replicate (hi : AnswersPositions i answer)
    (hkeep : ∀ s a b r, answer ((s.pastWord b).ret r) a = answer s a) (h : s.Inv) (k : Nat) :
    ∃ t, runCommands (List.replicate (k + 1) i) s = .next t ∧ (∀ a, t.planeAt a = s.planeAt a) ∧
      (k < s.eligibleAhead.length → t.err = .ok ∧ t.result = answer s (s.eligibleAhead.getD k 0)) ∧
      (s.eligibleAhead.length ≤ k → t.err = .endOfMedium) := by
  obtain ⟨hnext, hend⟩ := hi s h
  induction k generalizing s with
  | zero =>
    cases hE : s.eligibleAhead with
    | nil =>
      exact ⟨_, runCommands_cons (hend hE) [], s.planeAt_atEnd, fun hlt => absurd hlt (Nat.not_lt_zero 0), fun _ => rfl⟩
    | cons a rest =>
      exact ⟨_, runCommands_cons (hnext a rest hE) [], fun _ => rfl, fun _ => ⟨rfl, rfl⟩,
        fun hle => absurd hle (Nat.not_succ_le_zero _)⟩
  | succ k ih =>
    rw [List.replicate_succ]
    cases hE : s.eligibleAhead with
    | nil =>
      have hs' := (h.atEnd hE).raise .endOfMedium 0
      obtain ⟨hnext', hend'⟩ := hi _ hs'
      obtain ⟨t, hrun, hplane, -, hover⟩ := ih hs' hnext' hend'
      refine ⟨t, (runCommands_cons (hend hE) _).trans hrun, fun a => (hplane a).trans (s.planeAt_atEnd a), fun hlt => ?_,
        fun _ => hover ?_⟩
      · exact absurd hlt (Nat.not_lt_zero _)
      · exact le_of_eq_of_le (congrArg List.length s.eligibleAhead_atEnd) (Nat.zero_le k)
    | cons a rest =>
      have hs' := (h.pastWord hE).ret (answer s a)
      have hrest : ((s.pastWord a).ret (answer s a)).eligibleAhead = rest :=
        (State.eligibleAhead_ret _ _).trans (State.eligibleAhead_pastWord hE)
      obtain ⟨hnext', hend'⟩ := hi _ hs'
      obtain ⟨t, hrun, hplane, hin, hover⟩ := ih hs' hnext' hend'
      rw [hrest] at hin hover
      refine ⟨t, (runCommands_cons (hnext a rest hE) _).trans hrun, hplane, fun hlt => ?_,
        fun hle => hover (Nat.le_of_succ_le_succ hle)⟩
      obtain ⟨herr, hresult⟩ := hin (Nat.lt_of_succ_lt_succ hlt)
      exact ⟨herr, hresult.trans (hkeep s _ a _)⟩

/-- Settles O54: both the count and the scan are the enumeration of all positions. -/
theorem scanCountEqualsSuccessfulAdvances : Obligations.ScanCountEqualsSuccessfulAdvances := by
  refine fun o s h => ⟨fun ho => ⟨(s.positions o).length, ?_, ?_, fun k => ?_⟩, fun habove => ?_⟩
  · rw [exec_scanCount h ho, List.countP_eq_length_filter]
    rfl
  · have hw : s.width.toNat / 8 ≤ 8191 := by omega
    have hh : s.height.toNat / 8 ≤ 8191 := by omega
    have hblocks := Nat.mul_le_mul hh hw
    have hle := (List.length_filter_le (s.eligibleAt o) _).trans_eq (length_dcAddrs s.width.toNat s.height.toNat)
    exact Nat.lt_of_le_of_lt (hle.trans hblocks) (by decide)
  · rw [runCommands_cons (exec_scanInit ho)]
    cases k with
    | zero => exact ⟨_, rfl, by simp, by simp, fun _ => rfl⟩
    | succ k =>
      obtain ⟨t, hrun, hplane, hin, hover⟩ :=
        scanAdv_answersPositions.run_replicate (fun _ _ _ _ => rfl) (h.scanStart ho) k
      rw [State.eligibleAhead_scanStart ho] at hin hover
      refine ⟨t, hrun, ?_, ?_, hplane⟩ <;> rcases Nat.lt_or_ge k (s.positions o).length with hlt | hge
      · simp [(hin hlt).1, hlt]
      · simp [hover hge, hge]
      · simp [(hin hlt).1, hlt]
      · simp [hover hge, Nat.lt_succ_of_le hge]
  · have harm : exec (.scanCount o) s = execScanCount o s := rfl
    rw [harm, execScanCount, State.onPlane_of_fit _ h.dims,
      if_neg fun hlegal => Nat.not_le.mpr habove ((s.orderLegal_iff o).mp hlegal)]
    rfl

end Sys2Proof.Machine
end

section
/-! PROOFS. A command on its way over the positions ahead (44_scanner.md R197, R198, R200). -/

namespace Sys2Proof.Machine

variable {s t : State} {n : Nat}

/-- `t` is `s` but for the memories, the counters and the answer: the scan stands at the same place. -/
def State.SameScan (s t : State) : Prop :=
  ∃ m q0 q1 e c k r, t = { s with plane := m, seq0 := q0, seq1 := q1, enc := e, chg := c, err := k, result := r }

namespace State.SameScan

theorem refl (s : State) : s.SameScan s := ⟨_, _, _, _, _, _, _, rfl⟩

theorem setPlaneAt (h : s.SameScan t) (a : Nat) (w : Word) : s.SameScan (t.setPlaneAt a w) := by
  obtain ⟨_, _, _, _, _, _, _, rfl⟩ := h
  exact ⟨_, _, _, _, _, _, _, rfl⟩

theorem countBit (h : s.SameScan t) (flipped : Bool) : s.SameScan (t.countBit flipped) := by
  obtain ⟨_, _, _, _, _, _, _, rfl⟩ := h
  exact ⟨_, _, _, _, _, _, _, rfl⟩

theorem setSeq (h : s.SameScan t) (q : SeqId) (v : BitSeq) : s.SameScan (t.setSeq q v) := by
  obtain ⟨_, _, _, _, _, _, _, rfl⟩ := h
  cases q <;> exact ⟨_, _, _, _, _, _, _, rfl⟩

theorem raise (h : s.SameScan t) (k : ErrCode) (r : Word) : s.SameScan (t.raise k r) := by
  obtain ⟨_, _, _, _, _, _, _, rfl⟩ := h
  exact ⟨_, _, _, _, _, _, _, rfl⟩

theorem pastWord (h : s.SameScan t) (a : Nat) : (s.pastWord a).SameScan (t.pastWord a) := by
  obtain ⟨_, _, _, _, _, _, _, rfl⟩ := h
  exact ⟨_, _, _, _, _, _, _, rfl⟩

theorem atEnd (h : s.SameScan t) : s.atEnd.SameScan t.atEnd := by
  obtain ⟨_, _, _, _, _, _, _, rfl⟩ := h
  unfold State.atEnd
  split <;> exact ⟨_, _, _, _, _, _, _, rfl⟩

/-- The registers of the block that no walk writes. -/
theorem keeps (h : s.SameScan t) :
    t.params = s.params ∧ t.epoch = s.epoch ∧ t.order = s.order ∧ t.width = s.width ∧ t.height = s.height := by
  obtain ⟨_, _, _, _, _, _, _, rfl⟩ := h
  exact ⟨rfl, rfl, rfl, rfl, rfl⟩

/-- Where the sequences stayed, `t` is `s` but for the plane, the counters and the answer. -/
theorem eq_of_seq (h : s.SameScan t) (hseq : ∀ q, t.seq q = s.seq q) :
    t = { s with plane := t.plane, enc := t.enc, chg := t.chg, err := t.err, result := t.result } := by
  obtain ⟨_, q0, q1, _, _, _, _, rfl⟩ := h
  obtain rfl : q0 = s.seq0 := hseq .s0
  obtain rfl : q1 = s.seq1 := hseq .s1
  rfl

/-- Where the plane and the counters stayed, `t` is `s` but for the sequences and the answer. -/
theorem eq_of_plane (h : s.SameScan t) (hplane : t.plane = s.plane) (henc : t.enc = s.enc) (hchg : t.chg = s.chg) :
    t = { s with seq0 := t.seq0, seq1 := t.seq1, err := t.err, result := t.result } := by
  obtain ⟨m, _, _, e, c, _, _, rfl⟩ := h
  obtain rfl : m = s.plane := hplane
  obtain rfl : e = s.enc := henc
  obtain rfl : c = s.chg := hchg
  rfl

end State.SameScan

/-- The cursor just past the first `n` positions ahead; with none of them passed it stands where it was. -/
def State.pastFirst (s : State) : Nat → State
  | 0 => s
  | n + 1 => s.pastNth n

theorem State.pastFirst_of_pos (s : State) (h : 0 < n) : s.pastFirst n = s.pastNth (n - 1) := by
  obtain ⟨k, rfl⟩ : ∃ k, n = k + 1 := ⟨n - 1, by omega⟩
  rfl

theorem State.pastFirst_keeps (s : State) (n : Nat) :
    (s.pastFirst n).params = s.params ∧ (s.pastFirst n).epoch = s.epoch ∧ (s.pastFirst n).order = s.order ∧
      (s.pastFirst n).width = s.width ∧ (s.pastFirst n).height = s.height := by
  cases n <;> exact ⟨rfl, rfl, rfl, rfl, rfl⟩

/-- The next position is where the cursor goes, wherever it was. -/
theorem State.pastWord_pastFirst (s : State) (n : Nat) :
    (s.pastFirst n).pastWord (s.eligibleAhead.getD n 0) = s.pastFirst (n + 1) := by
  cases n <;> rfl

/-- The end of the scan is one place, however many positions were passed on the way (44_scanner.md R192(b)). -/
theorem State.atEnd_pastFirst (s : State) : (s.pastFirst s.eligibleAhead.length).atEnd = s.atEnd := by
  cases hE : s.eligibleAhead with
  | nil => rfl
  | cons a rest =>
    obtain ⟨heom, hw, hh⟩ := State.canMove_of_eligibleAhead (hE ▸ List.cons_ne_nil a rest)
    rw [State.atEnd_of_canMove heom hw hh]
    exact State.atEnd_of_canMove heom hw hh

/-- A command that began in `s` has passed the first `n` positions ahead and stands in `t`. -/
structure State.Walked (s : State) (n : Nat) (t : State) : Prop where
  inv : t.Inv
  ahead : t.eligibleAhead = s.eligibleAhead.drop n
  same : (s.pastFirst n).SameScan t
  passed : s.blocksPassed ≤ t.blocksPassed

namespace State.Walked

theorem zero (h : s.Inv) : s.Walked 0 s := ⟨h, rfl, .refl s, le_rfl⟩

theorem keeps (h : s.Walked n t) : t.params = s.params ∧ t.epoch = s.epoch ∧ t.order = s.order := by
  obtain ⟨hparams, hepoch, horder, -⟩ := h.same.keeps
  obtain ⟨hparams', hepoch', horder', -⟩ := s.pastFirst_keeps n
  exact ⟨hparams.trans hparams', hepoch.trans hepoch', horder.trans horder'⟩

theorem dims (h : s.Walked n t) : t.width = s.width ∧ t.height = s.height := by
  obtain ⟨-, -, -, hwidth, hheight⟩ := h.same.keeps
  obtain ⟨-, -, -, hwidth', hheight'⟩ := s.pastFirst_keeps n
  exact ⟨hwidth.trans hwidth', hheight.trans hheight'⟩

theorem num_eq (h : s.Walked n t) : t.num = s.num := congrArg Params.num h.keeps.1

theorem planeAt_of_plane_eq (h : s.Walked n t) (hplane : t.plane = s.plane) (a : Nat) : t.planeAt a = s.planeAt a := by
  obtain ⟨-, hepoch, -⟩ := h.keeps
  rw [State.planeAt, State.planeAt, State.unwrittenPlane, State.unwrittenPlane, hplane, hepoch]

/-- One position more (44_scanner.md R192). -/
theorem next (h : s.Walked n t) (hn : n < s.eligibleAhead.length) :
    t.eligibleAhead = s.eligibleAhead.getD n 0 :: s.eligibleAhead.drop (n + 1) ∧
    t.advance = (t.pastWord (s.eligibleAhead.getD n 0), some (s.eligibleAhead.getD n 0)) ∧
    s.Walked (n + 1) (t.pastWord (s.eligibleAhead.getD n 0)) := by
  have hE : t.eligibleAhead = s.eligibleAhead.getD n 0 :: s.eligibleAhead.drop (n + 1) := by
    rw [h.ahead, List.drop_eq_getElem_cons hn, List.getD_eq_getElem _ _ hn]
  have hadv := h.inv.advance_of_cons hE
  obtain ⟨hinv, hpassed, -⟩ := h.inv.advance_some hadv
  exact ⟨hE, hadv, hinv, State.eligibleAhead_pastWord hE, s.pastWord_pastFirst n ▸ h.same.pastWord _,
    h.passed.trans (Nat.le_of_succ_le hpassed)⟩

/-- No position more (44_scanner.md R192(b)). -/
theorem finish (h : s.Walked s.eligibleAhead.length t) :
    t.advance = (t.atEnd, none) ∧ s.atEnd.SameScan t.atEnd :=
  ⟨h.inv.advance_of_nil (by rw [h.ahead, List.drop_length]), s.atEnd_pastFirst ▸ h.same.atEnd⟩

end State.Walked

end Sys2Proof.Machine
end

section
/-! PROOFS. Bits written to the positions ahead: SCAN.WRBIT and SCAN.WRBUF (44_scanner.md R195, R197). -/

namespace Sys2Proof.Machine

variable {s t : State} {bit : Nat → Bool} {a n left : Nat} {rest : List Nat}

/-! One bit. -/

/-- The bit that the word at `a` carries at the scanner's order (44_scanner.md R194). -/
def State.bitAt (s : State) (a : Nat) : Bool := carriedBit s.num (s.planeAt a) s.order.toNat

/-- The cursor just past the word at `a`, and that word rewritten to carry `bit`, and counted (44_scanner.md R195). -/
def State.bitWrittenAt (s : State) (a : Nat) (bit : Bool) : State :=
  ((s.pastWord a).setPlaneAt a (rewriteBit s.num (s.planeAt a) s.order.toNat bit)).countBit (s.bitAt a != bit)

theorem State.Inv.writeBit_of_cons (h : s.Inv) (hE : s.eligibleAhead = a :: rest) (bit : Bool) :
    s.writeBit bit = (s.bitWrittenAt a bit, some (s.bitAt a != bit)) := by
  rw [State.writeBit, h.advance_of_cons hE]
  rfl

theorem State.Inv.writeBit_of_nil (h : s.Inv) (hE : s.eligibleAhead = []) (bit : Bool) :
    s.writeBit bit = (s.atEnd, none) := by
  rw [State.writeBit, h.advance_of_nil hE]

@[simp] theorem State.planeAt_bitWrittenAt_same (s : State) (a : Nat) (bit : Bool) :
    (s.bitWrittenAt a bit).planeAt a = rewriteBit s.num (s.planeAt a) s.order.toNat bit := by
  rw [State.bitWrittenAt, State.countBit_planeAt, State.planeAt_setPlaneAt_same]

theorem State.planeAt_bitWrittenAt_other (s : State) {a b : Nat} (bit : Bool) (hne : b ≠ a) :
    (s.bitWrittenAt a bit).planeAt b = s.planeAt b := by
  rw [State.bitWrittenAt, State.countBit_planeAt, State.planeAt_setPlaneAt_other _ _ hne]
  rfl

/-- A counter counts one bit more: there are fewer bits than it can count (10_state.md R29). -/
theorem State.Inv.countBit_toNat (h : s.Inv) (flipped : Bool) :
    (s.countBit flipped).enc.toNat = s.enc.toNat + 1 ∧ (s.countBit flipped).chg.toNat = s.chg.toNat + flipped.toNat := by
  have hbound := s.blocksPassed_lt
  obtain ⟨hchg, henc⟩ := h.counters
  have hsucc : ∀ x : BitVec 32, x.toNat ≤ s.blocksPassed → (x + 1).toNat = x.toNat + 1 := fun x hx => by
    rw [BitVec.toNat_add]
    exact Nat.mod_eq_of_lt (by simp; omega)
  refine ⟨hsucc _ henc, ?_⟩
  cases flipped
  · rfl
  · exact hsucc _ (hchg.trans henc)

theorem State.Inv.bitWrittenAt_counters (h : s.Inv) (a : Nat) (bit : Bool) :
    (s.bitWrittenAt a bit).enc.toNat = s.enc.toNat + 1 ∧
      (s.bitWrittenAt a bit).chg.toNat = s.chg.toNat + (s.bitAt a != bit).toNat :=
  h.countBit_toNat (s.bitAt a != bit)

theorem State.Inv.bitWrittenAt (h : s.Inv) (hE : s.eligibleAhead = a :: rest) (bit : Bool) : (s.bitWrittenAt a bit).Inv := by
  have hinv := h.writeBit bit
  rwa [h.writeBit_of_cons hE] at hinv

/-- The word written is behind the cursor, so the positions ahead stay as they were (44_scanner.md R192(d), R195). -/
theorem State.eligibleAhead_bitWrittenAt (hE : s.eligibleAhead = a :: rest) (bit : Bool) :
    (s.bitWrittenAt a bit).eligibleAhead = rest := by
  rw [← State.eligibleAhead_pastWord hE]
  refine List.filter_congr fun b hb => ?_
  have hne : b ≠ a := fun hba => State.not_mem_ahead_pastWord hE (hba ▸ hb)
  simp only [State.eligibleAt, State.planeAt_bitWrittenAt_other s bit hne]
  rfl

theorem exec_scanWrbit_of_cons (h : s.Inv) (hE : s.eligibleAhead = a :: rest) (b : Bool) :
    exec (.scanWrbit b) s = .next ((s.bitWrittenAt a b).ret (bitWord (s.bitAt a != b))) := by
  have harm : exec (.scanWrbit b) s = execScanWrbit b s := rfl
  rw [harm, execScanWrbit, h.onScan, h.writeBit_of_cons hE]

theorem exec_scanWrbit_of_nil (h : s.Inv) (hE : s.eligibleAhead = []) (b : Bool) :
    exec (.scanWrbit b) s = .next (s.atEnd.raise .endOfMedium 0) := by
  have harm : exec (.scanWrbit b) s = execScanWrbit b s := rfl
  rw [harm, execScanWrbit, h.onScan, h.writeBit_of_nil hE]

/-- Settles O50: the first position ahead is rewritten and counted. -/
theorem scanWrbitWritesNextPosition : Obligations.ScanWrbitWritesNextPosition := by
  refine fun b s h => ⟨fun a ha => ?_, fun hE => exec_scanWrbit_of_nil h hE b⟩
  obtain ⟨rest, hE⟩ := List.head?_eq_some_iff.mp ha
  obtain ⟨henc, hchg⟩ := h.bitWrittenAt_counters a b
  refine ⟨_, exec_scanWrbit_of_cons h hE b, s.planeAt_bitWrittenAt_same a b,
    fun a' hne => s.planeAt_bitWrittenAt_other b hne, henc, hchg, ?_⟩
  have hresult : bitWord (s.bitAt a != b) = if carriedBit s.num (s.planeAt a) s.order.toNat = b then 0 else 1 := by
    rw [State.bitAt]
    cases carriedBit s.num (s.planeAt a) s.order.toNat <;> cases b <;> rfl
  rw [← hresult]
  rfl

/-! Several bits. -/

/-- Bits written one after the other from `s` on: `bit j` to position `j` of those ahead, for `j < n`; `t` is where
that leads (44_scanner.md R195, R197). -/
structure State.Written (s : State) (bit : Nat → Bool) (n : Nat) (t : State) : Prop extends s.Walked n t where
  seq : ∀ q, t.seq q = s.seq q
  word : ∀ j, j < n →
    t.planeAt (s.eligibleAhead.getD j 0) =
      rewriteBit s.num (s.planeAt (s.eligibleAhead.getD j 0)) s.order.toNat (bit j)
  other : ∀ a, a ∉ s.eligibleAhead.take n → t.planeAt a = s.planeAt a
  enc : t.enc.toNat = s.enc.toNat + n
  chg : t.chg.toNat = s.chg.toNat + (List.range n).countP fun j => s.bitAt (s.eligibleAhead.getD j 0) != bit j

/-- An entry of a list without repetitions is among the first `n` only if its place is. -/
theorem lt_of_getD_mem_take {l : List Nat} (hl : l.Nodup) {j n : Nat} (hj : j < l.length) (h : l.getD j 0 ∈ l.take n) :
    j < n := by
  rw [List.getD_eq_getElem _ _ hj] at h
  obtain ⟨i, hi, heq⟩ := List.mem_take_iff_getElem.mp h
  have hij := (hl.getElem_inj_iff).mp heq
  omega

namespace State.Written

theorem zero (bit : Nat → Bool) (h : s.Inv) : s.Written bit 0 s where
  toWalked := .zero h
  seq _ := rfl
  word _ hj := absurd hj (Nat.not_lt_zero _)
  other _ _ := rfl
  enc := rfl
  chg := rfl

/-- One bit more (44_scanner.md R195). -/
theorem next (h : s.Written bit n t) (hn : n < s.eligibleAhead.length) :
    s.Written bit (n + 1) (t.bitWrittenAt (s.eligibleAhead.getD n 0) (bit n)) := by
  obtain ⟨hE, -, hwalked⟩ := h.toWalked.next hn
  obtain ⟨-, -, horder⟩ := h.toWalked.keeps
  obtain ⟨henc, hchg⟩ := h.inv.bitWrittenAt_counters (s.eligibleAhead.getD n 0) (bit n)
  have hnow : t.planeAt (s.eligibleAhead.getD n 0) = s.planeAt (s.eligibleAhead.getD n 0) :=
    h.other _ fun hmem => absurd (lt_of_getD_mem_take s.nodup_eligibleAhead hn hmem) (Nat.lt_irrefl n)
  have hbit : t.bitAt (s.eligibleAhead.getD n 0) = s.bitAt (s.eligibleAhead.getD n 0) := by
    rw [State.bitAt, State.bitAt, h.toWalked.num_eq, hnow, horder]
  refine ⟨⟨h.inv.bitWrittenAt hE _, State.eligibleAhead_bitWrittenAt hE _, (hwalked.same.setPlaneAt _ _).countBit _,
      hwalked.passed⟩,
    fun q => (State.countBit_seq _ _ q).trans ((State.setPlaneAt_seq _ _ _ q).trans
      ((State.setCursor_seq _ _ _ _ q).trans (h.seq q))), fun j hj => ?_, fun a ha => ?_, ?_, ?_⟩
  · rcases Nat.lt_succ_iff_lt_or_eq.mp hj with hlt | rfl
    · have hne : s.eligibleAhead.getD j 0 ≠ s.eligibleAhead.getD n 0 := fun heq => by
        have hmem : s.eligibleAhead.getD n 0 ∈ s.eligibleAhead.take (j + 1) := by
          rw [← heq, List.getD_eq_getElem _ _ (hlt.trans hn)]
          exact List.mem_take_iff_getElem.mpr ⟨j, by omega, rfl⟩
        have hnj := lt_of_getD_mem_take s.nodup_eligibleAhead hn hmem
        omega
      rw [State.planeAt_bitWrittenAt_other _ _ hne, h.word j hlt]
    · rw [State.planeAt_bitWrittenAt_same, hnow, h.toWalked.num_eq, horder]
  · rw [List.take_add_one, List.getElem?_eq_getElem hn, ← List.getD_eq_getElem _ 0 hn] at ha
    simp only [Option.toList_some, List.mem_append, List.mem_singleton, not_or] at ha
    rw [State.planeAt_bitWrittenAt_other _ _ ha.2, h.other a ha.1]
  · rw [henc, h.enc, Nat.add_assoc]
  · rw [hchg, h.chg, hbit, List.range_succ, List.countP_append, List.countP_singleton, Nat.add_assoc]
    cases s.bitAt (s.eligibleAhead.getD n 0) != bit n <;> rfl

/-- What a command that ends the walk leaves of the plane and the counters. -/
theorem effects {m : Nat} (h : s.Written bit n t) {u : State} (hplane : ∀ a, u.planeAt a = t.planeAt a)
    (henc : u.enc = t.enc) (hchg : u.chg = t.chg) (hm : n = min m s.eligibleAhead.length) :
    (∀ j, j < min m s.eligibleAhead.length →
      u.planeAt (s.eligibleAhead.getD j 0) =
        rewriteBit s.num (s.planeAt (s.eligibleAhead.getD j 0)) s.order.toNat (bit j)) ∧
    (∀ a, a ∉ s.eligibleAhead.take m → u.planeAt a = s.planeAt a) ∧
    u.enc.toNat = s.enc.toNat + min m s.eligibleAhead.length ∧
    u.chg.toNat = s.chg.toNat + (List.range (min m s.eligibleAhead.length)).countP (fun j =>
      carriedBit s.num (s.planeAt (s.eligibleAhead.getD j 0)) s.order.toNat != bit j) := by
  have htake : s.eligibleAhead.take m = s.eligibleAhead.take n := List.take_eq_take_iff.mpr (by omega)
  rw [htake, ← hm]
  exact ⟨fun j hj => (hplane _).trans (h.word j hj), fun a ha => (hplane a).trans (h.other a ha),
    henc ▸ h.enc, hchg ▸ h.chg⟩

/-- The loop of SCAN.WRBUF, begun at bit `n` with `left` bits still to write: it writes them all, or runs out of positions
(44_scanner.md R197). -/
theorem writeSeq {q : BitSeq} (h : s.Written q.get n t) :
    (n + left ≤ s.eligibleAhead.length →
      ∃ u, State.writeSeq q left n t = (u, none) ∧ s.Written q.get (n + left) u) ∧
    (n ≤ s.eligibleAhead.length → s.eligibleAhead.length < n + left →
      ∃ u, State.writeSeq q left n t = (u.atEnd, some s.eligibleAhead.length) ∧
        s.Written q.get s.eligibleAhead.length u) := by
  induction left generalizing n t with
  | zero => exact ⟨fun _ => ⟨t, rfl, h⟩, fun hle hlt => absurd hlt (Nat.not_lt.mpr hle)⟩
  | succ left ih =>
    rcases Nat.lt_or_ge n s.eligibleAhead.length with hn | hn
    · obtain ⟨hE, -, -⟩ := h.toWalked.next hn
      have hstep : State.writeSeq q (left + 1) n t =
          State.writeSeq q left (n + 1) (t.bitWrittenAt (s.eligibleAhead.getD n 0) (q.get n)) := by
        rw [State.writeSeq, h.inv.writeBit_of_cons hE]
      obtain ⟨hall, hend⟩ := ih (h.next hn)
      rw [hstep, ← Nat.succ_add_eq_add_succ]
      exact ⟨hall, fun _ => hend hn⟩
    · refine ⟨fun hle => absurd hle (by omega), fun hle _ => ?_⟩
      obtain rfl : n = s.eligibleAhead.length := Nat.le_antisymm hle hn
      refine ⟨t, ?_, h⟩
      rw [State.writeSeq, h.inv.writeBit_of_nil (by rw [h.ahead, List.drop_length])]

end State.Written

/-- SCAN.WRBUF with enough positions, and with too few (44_scanner.md R197). -/
theorem exec_scanWrbuf_cases (h : s.Inv) (q : SeqId) :
    ((s.seq q).length ≤ s.eligibleAhead.length ∧
      ∃ u, exec (.scanWrbuf q) s = .next (u.ret (natWord (s.seq q).length)) ∧
        s.Written (s.seq q).get (s.seq q).length u ∧ ((s.seq q).length = 0 → u = s)) ∨
    (s.eligibleAhead.length < (s.seq q).length ∧
      ∃ u, exec (.scanWrbuf q) s = .next (u.atEnd.raise .endOfMedium (natWord s.eligibleAhead.length)) ∧
        s.Written (s.seq q).get s.eligibleAhead.length u) := by
  obtain ⟨hall, hend⟩ := State.Written.writeSeq (left := (s.seq q).length) (.zero (s.seq q).get h)
  rw [Nat.zero_add] at hall hend
  have harm : exec (.scanWrbuf q) s = execScanWrbuf q s := rfl
  rw [harm, execScanWrbuf, h.onScan]
  rcases Nat.lt_or_ge s.eligibleAhead.length (s.seq q).length with hlt | hge
  · obtain ⟨u, hrun, hu⟩ := hend (Nat.zero_le _) hlt
    exact .inr ⟨hlt, u, by rw [hrun], hu⟩
  · obtain ⟨u, hrun, hu⟩ := hall hge
    refine .inl ⟨hge, u, by rw [hrun], hu, fun hzero => ?_⟩
    rw [hzero] at hrun
    exact (congrArg Prod.fst hrun).symm

/-- Settles O52: the walk writes as many bits as there are, or as there are positions. -/
theorem scanWrbufWritesSequenceInOrder : Obligations.ScanWrbufWritesSequenceInOrder := by
  intro q s h
  rcases exec_scanWrbuf_cases h q with ⟨hle, u, hrun, hu, hzero⟩ | ⟨hlt, u, hrun, hu⟩
  · obtain ⟨hword, hother, henc, hchg⟩ := hu.effects (m := (s.seq q).length) (u := u.ret (natWord (s.seq q).length))
      (fun _ => rfl) rfl rfl (Nat.min_eq_left hle).symm
    refine ⟨_, hrun, hword, hother, henc, hchg, fun hlen => ?_, fun hpos _ => ?_, fun hover => absurd hle (by omega)⟩
    · rw [hzero hlen, hlen]
      rfl
    · have hsame := s.pastFirst_of_pos hpos ▸ hu.same
      exact congrArg (State.ret · _) (hsame.eq_of_seq fun p => (hu.seq p).trans (State.setCursor_seq _ _ _ _ p).symm)
  · obtain ⟨-, hencEnd, hchgEnd, hseqEnd⟩ := u.atEnd_keeps
    obtain ⟨-, -, -, hseqEnd'⟩ := s.atEnd_keeps
    obtain ⟨hword, hother, henc, hchg⟩ := hu.effects (m := (s.seq q).length)
      (u := u.atEnd.raise .endOfMedium (natWord s.eligibleAhead.length)) u.planeAt_atEnd hencEnd hchgEnd
      (Nat.min_eq_right hlt.le).symm
    refine ⟨_, hrun, hword, hother, henc, hchg, fun hlen => absurd hlt (by omega), fun _ hle => absurd hle (by omega),
      fun _ => ?_⟩
    obtain ⟨-, hsame⟩ := hu.toWalked.finish
    exact congrArg (State.raise · _ _)
      (hsame.eq_of_seq fun p => (hseqEnd p).trans ((hu.seq p).trans (hseqEnd' p).symm))

end Sys2Proof.Machine
end

section
/-! PROOFS. Bits read from the positions ahead: SCAN.RDBUF (44_scanner.md R198). -/

namespace Sys2Proof.Machine

variable {s t : State} {q : SeqId} {a n room : Nat} {rest : List Nat}

/-! One bit. -/

/-- A bit appended to a sequence with room below `2^24` (42_bit_sequence.md R150). -/
theorem BitSeq.put_append (v : BitSeq) (bit : Bool) (h : v.length + 1 < 2 ^ 24) :
    (v.put v.length 1 bit.toNat).length = v.length + 1 ∧
      ∀ j, (v.put v.length 1 bit.toNat).get j = if j = v.length then bit else v.get j := by
  refine ⟨?_, fun j => ?_⟩
  · rw [BitSeq.length_put _ _ _ _ h, if_neg Nat.one_ne_zero, Nat.max_eq_right (Nat.le_succ _)]
  · rw [BitSeq.get_put]
    by_cases hj : j = v.length
    · subst hj
      cases bit <;> simp
    · rw [if_neg (by omega), if_neg hj]

/-- The cursor just past the word at `a`, and the bit of that word at the end of sequence `q` (44_scanner.md R198). -/
def State.bitReadInto (s : State) (q : SeqId) (a : Nat) : State :=
  (s.pastWord a).setSeq q ((s.seq q).put (s.seq q).length 1 (s.bitAt a).toNat)

theorem State.Inv.readSeq_of_cons (h : s.Inv) (hE : s.eligibleAhead = a :: rest) :
    State.readSeq q (room + 1) n s = State.readSeq q room (n + 1) (s.bitReadInto q a) := by
  have hseq : (s.pastWord a).seq q = s.seq q := State.setCursor_seq _ _ _ _ _
  rw [State.readSeq, h.advance_of_cons hE, State.bitReadInto, ← hseq]
  rfl

theorem State.Inv.readSeq_of_nil (h : s.Inv) (hE : s.eligibleAhead = []) :
    State.readSeq q (room + 1) n s = s.atEnd.ret (natWord n) := by
  rw [State.readSeq, h.advance_of_nil hE]

theorem State.Inv.bitReadInto (h : s.Inv) (hE : s.eligibleAhead = a :: rest) (hroom : (s.seq q).length < s.bitCap) :
    (s.bitReadInto q a).Inv := by
  have hseq : (s.pastWord a).seq q = s.seq q := State.setCursor_seq _ _ _ _ _
  have hinv := (h.pastWord hE).setSeq_put q (s.bitAt a).toNat (lo := (s.seq q).length) (n := 1) hroom
  rwa [hseq] at hinv

/-- What the sequence holds then. -/
theorem State.seq_bitReadInto (a : Nat) (hroom : (s.seq q).length < s.bitCap) :
    ((s.bitReadInto q a).seq q).length = (s.seq q).length + 1 ∧
      ∀ j, ((s.bitReadInto q a).seq q).get j = if j = (s.seq q).length then s.bitAt a else (s.seq q).get j := by
  have hcap := s.bitCap_lt
  rw [State.bitReadInto, State.seq_setSeq_same]
  exact BitSeq.put_append _ _ (by omega)

theorem State.seq_bitReadInto_other (s : State) {p : SeqId} (a : Nat) (hp : p ≠ q) :
    (s.bitReadInto q a).seq p = s.seq p := by
  rw [State.bitReadInto, State.seq_setSeq_other _ _ hp]
  exact State.setCursor_seq _ _ _ _ _

/-! Several bits. -/

/-- Bits read one after the other from `s` on and appended to sequence `q`, those of the first `n` positions ahead; `t` is
where that leads (44_scanner.md R198). -/
structure State.BitsRead (s : State) (q : SeqId) (n : Nat) (t : State) : Prop extends s.Walked n t where
  plane : t.plane = s.plane
  enc : t.enc = s.enc
  chg : t.chg = s.chg
  length : (t.seq q).length = (s.seq q).length + n
  old : ∀ j, j < (s.seq q).length → (t.seq q).get j = (s.seq q).get j
  new : ∀ j, j < n → (t.seq q).get ((s.seq q).length + j) = s.bitAt (s.eligibleAhead.getD j 0)
  other : ∀ p, p ≠ q → t.seq p = s.seq p

namespace State.BitsRead

theorem zero (q : SeqId) (h : s.Inv) : s.BitsRead q 0 s where
  toWalked := .zero h
  plane := rfl
  enc := rfl
  chg := rfl
  length := rfl
  old _ _ := rfl
  new _ hj := absurd hj (Nat.not_lt_zero _)
  other _ _ := rfl

theorem bitCap_eq (h : s.BitsRead q n t) : t.bitCap = s.bitCap := by
  obtain ⟨hparams, -⟩ := h.toWalked.keeps
  rw [State.bitCap, State.bitCap, hparams]

/-- One bit more, with room for it (44_scanner.md R198). -/
theorem next (h : s.BitsRead q n t) (hn : n < s.eligibleAhead.length) (hroom : (t.seq q).length < t.bitCap) :
    s.BitsRead q (n + 1) (t.bitReadInto q (s.eligibleAhead.getD n 0)) := by
  obtain ⟨hE, -, hwalked⟩ := h.toWalked.next hn
  obtain ⟨-, -, horder⟩ := h.toWalked.keeps
  obtain ⟨hlen, hget⟩ := State.seq_bitReadInto (s.eligibleAhead.getD n 0) hroom
  have hbit : t.bitAt (s.eligibleAhead.getD n 0) = s.bitAt (s.eligibleAhead.getD n 0) := by
    rw [State.bitAt, State.bitAt, h.toWalked.num_eq, h.toWalked.planeAt_of_plane_eq h.plane, horder]
  rw [h.length] at hlen hget
  refine ⟨⟨h.inv.bitReadInto hE hroom, ?_, hwalked.same.setSeq q _, ?_⟩, (State.setSeq_plane _ _ _).trans h.plane,
    (State.setSeq_enc _ _ _).trans h.enc, (State.setSeq_chg _ _ _).trans h.chg, hlen, fun j hj => ?_, fun j hj => ?_,
    fun p hp => (t.seq_bitReadInto_other _ hp).trans (h.other p hp)⟩
  · rw [← hwalked.ahead]
    cases q <;> rfl
  · refine hwalked.passed.trans_eq ?_
    cases q <;> rfl
  · rw [hget, if_neg (by omega), h.old j hj]
  · rw [hget]
    rcases Nat.lt_succ_iff_lt_or_eq.mp hj with hlt | rfl
    · rw [if_neg (by omega), h.new j hlt]
    · rw [if_pos rfl, hbit]

/-- The loop of SCAN.RDBUF, after `n` bits and with room for `room` more: it fills the room, or runs out of positions first
(44_scanner.md R198). -/
theorem readSeq (h : s.BitsRead q n t) (hroom : (s.seq q).length + (n + room) ≤ s.bitCap) :
    (n + room ≤ s.eligibleAhead.length →
      ∃ u, State.readSeq q room n t = u.raise .bufOverflow (natWord (n + room)) ∧ s.BitsRead q (n + room) u) ∧
    (n ≤ s.eligibleAhead.length → s.eligibleAhead.length < n + room →
      ∃ u, State.readSeq q room n t = u.atEnd.ret (natWord s.eligibleAhead.length) ∧
        s.BitsRead q s.eligibleAhead.length u) := by
  induction room generalizing n t with
  | zero => exact ⟨fun _ => ⟨t, rfl, h⟩, fun hle hlt => absurd hlt (Nat.not_lt.mpr hle)⟩
  | succ room ih =>
    rcases Nat.lt_or_ge n s.eligibleAhead.length with hn | hn
    · obtain ⟨hE, -, -⟩ := h.toWalked.next hn
      have hlen := h.length
      have hcap := h.bitCap_eq
      obtain ⟨hall, hend⟩ := ih (h.next hn (by omega)) (by omega)
      rw [h.inv.readSeq_of_cons hE, ← Nat.succ_add_eq_add_succ]
      exact ⟨hall, fun _ => hend hn⟩
    · refine ⟨fun hle => absurd hle (by omega), fun hle _ => ?_⟩
      obtain rfl : n = s.eligibleAhead.length := Nat.le_antisymm hle hn
      exact ⟨t, h.inv.readSeq_of_nil (by rw [h.ahead, List.drop_length]), h⟩

/-- What a command that ends the walk leaves of the sequences. -/
theorem effects {m : Nat} (h : s.BitsRead q n t) {u : State} (hseq : ∀ p, u.seq p = t.seq p)
    (hm : n = min s.eligibleAhead.length m) :
    (u.seq q).length = (s.seq q).length + min s.eligibleAhead.length m ∧
    (∀ j, j < (s.seq q).length → (u.seq q).get j = (s.seq q).get j) ∧
    (∀ j, j < min s.eligibleAhead.length m → (u.seq q).get ((s.seq q).length + j) =
      carriedBit s.num (s.planeAt (s.eligibleAhead.getD j 0)) s.order.toNat) ∧
    (∀ p, p ≠ q → u.seq p = s.seq p) := by
  rw [← hm, hseq q]
  exact ⟨h.length, h.old, h.new, fun p hp => (hseq p).trans (h.other p hp)⟩

end State.BitsRead

theorem exec_scanRdbuf (h : s.Inv) (q : SeqId) :
    exec (.scanRdbuf q) s = .next (State.readSeq q (s.bitCap - (s.seq q).length) 0 s) := by
  have harm : exec (.scanRdbuf q) s = execScanRdbuf q s := rfl
  rw [harm, execScanRdbuf, h.onScan]

/-- SCAN.RDBUF up to the end of the medium, and up to the end of the sequence (44_scanner.md R198). -/
theorem exec_scanRdbuf_cases (h : s.Inv) (q : SeqId) :
    (s.eligibleAhead.length < s.bitCap - (s.seq q).length ∧
      ∃ u, exec (.scanRdbuf q) s = .next (u.atEnd.ret (natWord s.eligibleAhead.length)) ∧
        s.BitsRead q s.eligibleAhead.length u) ∨
    (s.bitCap - (s.seq q).length ≤ s.eligibleAhead.length ∧
      ∃ u, exec (.scanRdbuf q) s = .next (u.raise .bufOverflow (natWord (s.bitCap - (s.seq q).length))) ∧
        s.BitsRead q (s.bitCap - (s.seq q).length) u) := by
  obtain ⟨hlen, -⟩ := h.seq q
  obtain ⟨hall, hend⟩ := (State.BitsRead.zero q h).readSeq (room := s.bitCap - (s.seq q).length) (by omega)
  rw [Nat.zero_add] at hall hend
  rw [exec_scanRdbuf h]
  rcases Nat.lt_or_ge s.eligibleAhead.length (s.bitCap - (s.seq q).length) with hlt | hge
  · obtain ⟨u, hrun, hu⟩ := hend (Nat.zero_le _) hlt
    exact .inl ⟨hlt, u, by rw [hrun], hu⟩
  · obtain ⟨u, hrun, hu⟩ := hall hge
    exact .inr ⟨hge, u, by rw [hrun], hu⟩

/-- Settles O53: the walk reads as many bits as there are positions, or as there is room. -/
theorem scanRdbufAppendsUntilTheEnd : Obligations.ScanRdbufAppendsUntilTheEnd := by
  intro q s h
  obtain ⟨hlen, -⟩ := h.seq q
  rcases exec_scanRdbuf_cases h q with ⟨hlt, u, hrun, hu⟩ | ⟨hle, u, hrun, hu⟩
  · obtain ⟨hplaneEnd, hencEnd, hchgEnd, hseqEnd⟩ := u.atEnd_keeps
    obtain ⟨hlength, hold, hnew, hother⟩ := hu.effects (u := u.atEnd.ret (natWord s.eligibleAhead.length))
      (m := s.bitCap - (s.seq q).length) (fun p => (State.ret_seq _ _ p).trans (hseqEnd p)) (Nat.min_eq_left hlt.le).symm
    refine ⟨_, hrun, hlength, hold, hnew, hother, fun _ => ?_, fun hfull => absurd hlt (by omega),
      fun _ hle => absurd hle (by omega)⟩
    obtain ⟨hplane, henc, hchg, -⟩ := s.atEnd_keeps
    obtain ⟨-, hsame⟩ := hu.toWalked.finish
    exact congrArg (State.ret · _) (hsame.eq_of_plane (hplaneEnd.trans (hu.plane.trans hplane.symm))
      (hencEnd.trans (hu.enc.trans henc.symm)) (hchgEnd.trans (hu.chg.trans hchg.symm)))
  · obtain ⟨hlength, hold, hnew, hother⟩ := hu.effects
      (u := u.raise .bufOverflow (natWord (s.bitCap - (s.seq q).length)))
      (m := s.bitCap - (s.seq q).length) (State.raise_seq _ _ _) (Nat.min_eq_right hle).symm
    refine ⟨_, hrun, hlength, hold, hnew, hother, fun hlt => absurd hle (by omega), fun hfull => ?_, fun hpos _ => ?_⟩
    · have hzero : s.bitCap - (s.seq q).length = 0 := by omega
      rw [exec_scanRdbuf h, hzero] at hrun
      rw [hzero]
      exact eq_of_next hrun
    · have hsame := s.pastFirst_of_pos hpos ▸ hu.same
      exact congrArg (State.raise · _ _) (hsame.eq_of_plane hu.plane hu.enc hu.chg)

end Sys2Proof.Machine
end

section
/-! PROOFS. What was written is read back (44_scanner.md R201). -/

namespace Sys2Proof.Machine

variable {s t u : State} {bit : Nat → Bool} {bits : List Bool} {n o : Nat} {is js : List Instr}

/-- Two lists of commands, the one after the other (20_memory.md R64). -/
theorem runCommands_append (h : runCommands is s = .next t) : runCommands (is ++ js) s = runCommands js t := by
  induction is generalizing s with
  | nil =>
    rw [eq_of_next h]
    rfl
  | cons i is ih =>
    cases hi : exec i s with
    | next v =>
      rw [runCommands_cons hi] at h
      rw [List.cons_append, runCommands_cons hi, ih h]
    | fault f =>
      rw [runCommands, hi] at h
      exact nomatch h
    | refused r =>
      rw [runCommands, hi] at h
      exact nomatch h

namespace State.Written

theorem ret (h : s.Written bit n t) (v : Word) : s.Written bit n (t.ret v) :=
  ⟨⟨h.inv.ret v, h.ahead, h.same.raise .ok v, h.passed⟩, fun q => (State.ret_seq t v q).trans (h.seq q), h.word,
    h.other, h.enc, h.chg⟩

/-- SCAN.WRBIT once for each bit writes them to the next positions (44_scanner.md R195). -/
theorem run_scanWrbit (h : s.Written bit n t) (hbits : ∀ j, j < bits.length → bits.getD j false = bit (n + j))
    (hn : n + bits.length ≤ s.eligibleAhead.length) :
    ∃ u, runCommands (bits.map Instr.scanWrbit) t = .next u ∧ s.Written bit (n + bits.length) u := by
  induction bits generalizing n t with
  | nil => exact ⟨t, rfl, h⟩
  | cons b bits ih =>
    rw [List.length_cons] at hbits hn
    have hlt : n < s.eligibleAhead.length := by omega
    obtain ⟨hE, -, -⟩ := h.toWalked.next hlt
    obtain rfl : b = bit n := hbits 0 (Nat.zero_lt_succ _)
    have htail : ∀ j, j < bits.length → bits.getD j false = bit (n + 1 + j) := fun j hj => by
      rw [Nat.add_assoc, Nat.add_comm 1]
      exact hbits (j + 1) (Nat.succ_lt_succ hj)
    obtain ⟨u, hrun, hu⟩ := ih ((h.next hlt).ret _) htail (by omega)
    refine ⟨u, (runCommands_cons (exec_scanWrbit_of_cons h.inv hE _) _).trans hrun, ?_⟩
    rwa [List.length_cons, ← Nat.succ_add_eq_add_succ]

/-- A word is as it was, or is that of a position, rewritten (44_scanner.md R203). -/
theorem word_cases (h : s.Written bit n t) (a : Nat) :
    t.planeAt a = s.planeAt a ∨
      a ∈ s.eligibleAhead ∧ ∃ b, t.planeAt a = rewriteBit s.num (s.planeAt a) s.order.toNat b := by
  by_cases ha : a ∈ s.eligibleAhead.take n
  · obtain ⟨j, hj, rfl⟩ := List.mem_take_iff_getElem.mp ha
    have hword := h.word j (by omega)
    rw [List.getD_eq_getElem _ _ (by omega)] at hword
    exact .inr ⟨List.mem_of_mem_take ha, _, hword⟩
  · exact .inl (h.other a ha)

/-- The positions of a scan stay its positions (41_order_predicate.md R143; 44_scanner.md R201). -/
theorem positions_eq (h : s.Written bit n t) : t.positions s.order.toNat = s.positions s.order.toNat := by
  obtain ⟨hwidth, hheight⟩ := h.toWalked.dims
  have helig : ∀ a, t.eligibleAt s.order.toNat a = s.eligibleAt s.order.toNat a := fun a => by
    rw [State.eligibleAt, State.eligibleAt, h.toWalked.num_eq]
    rcases h.word_cases a with hsame | ⟨ha, b, hword⟩
    · rw [hsame]
    · obtain ⟨-, hold⟩ := State.mem_eligibleAhead ha
      obtain ⟨hnew, -⟩ :=
        writtenBitReadsBackExactly s.num (s.planeAt a) s.order.toNat b (Nat.le_of_lt_succ s.order.isLt) hold
      rw [hword, hnew]
      exact hold.symm
  rw [State.positions, State.positions, hwidth, hheight, funext helig]

end State.Written

/-- Settles O56: SCAN.INIT finds the same positions again, and each holds the bit written to it, or its old one. -/
theorem writtenBitsReadBackInOrder : Obligations.WrittenBitsReadBackInOrder := by
  intro o bits s h ho hlen
  have horder := s.scanStart_order ho
  have hpositions := s.eligibleAhead_scanStart ho
  obtain ⟨u, hrun, hu⟩ := (State.Written.zero (bits.getD · false) (h.scanStart ho)).run_scanWrbit (bits := bits)
    (fun j _ => by rw [Nat.zero_add]) (by rw [hpositions]; omega)
  rw [Nat.zero_add] at hu
  have ho' : o ≤ u.orderMax := by
    obtain ⟨hparams, -⟩ := hu.toWalked.keeps
    rw [State.orderMax, hparams]
    exact ho
  have hagain : (u.scanStart o).eligibleAhead = s.positions o := by
    have hkept := hu.positions_eq
    rw [horder] at hkept
    rw [State.eligibleAhead_scanStart ho', hkept]
    rfl
  refine ⟨u.scanStart o, ?_, rfl, fun k => ?_⟩
  · rw [List.cons_append, runCommands_cons (exec_scanInit_scanStart ho), runCommands_append hrun]
    exact runCommands_cons (exec_scanInit_scanStart ho') []
  · obtain ⟨v, hread, -, hin, hover⟩ :=
      scanRdbit_answersPositions.run_replicate (fun _ _ _ _ => rfl) (hu.inv.scanStart ho') k
    rw [hagain, State.scanStart_order ho'] at hin
    rw [hagain] at hover
    have hnum : (u.scanStart o).num = s.num := hu.toWalked.num_eq
    have hplane : ∀ a, (u.scanStart o).planeAt a = u.planeAt a := fun _ => rfl
    refine ⟨v, hread, fun hk => ?_, fun hk hk' => ?_, hover⟩
    · obtain ⟨herr, hresult⟩ := hin (by omega)
      have hmem : (s.positions o).getD k 0 ∈ (s.scanStart o).eligibleAhead := by
        rw [hpositions, List.getD_eq_getElem _ _ (by omega)]
        exact List.getElem_mem _
      obtain ⟨-, helig⟩ := State.mem_eligibleAhead hmem
      have hword := hu.word k hk
      obtain ⟨-, hback, -⟩ := writtenBitReadsBackExactly _ _ _ (bits.getD k false)
        (Nat.le_of_lt_succ (s.scanStart o).order.isLt) helig
      rw [hpositions] at hword
      rw [← hword, horder] at hback
      refine ⟨herr, ?_⟩
      rw [hresult, hnum, hplane]
      exact congrArg bitWord hback
    · obtain ⟨herr, hresult⟩ := hin hk'
      refine ⟨herr, ?_⟩
      have hold := hu.other ((s.positions o).getD k 0) fun hmem => ?_
      · rw [hresult, hnum, hplane, hold]
        rfl
      · rw [hpositions] at hmem
        have hlt := lt_of_getD_mem_take (hpositions ▸ State.nodup_eligibleAhead _) hk' hmem
        omega

end Sys2Proof.Machine
end

section
/-! PROOFS. What a scanner command leaves alone, and what it does not look at (44_scanner.md R203). -/

namespace Sys2Proof.Machine

variable {s s' t u : State} {bit : Nat → Bool} {a n room : Nat} {q : SeqId} {i : Instr}
  {answer : State → Nat → Word}

/-! What it writes. -/

/-- The registers no scanner command writes, by the writers of each (10_state.md R22, R27, R30). -/
theorem CommandEffect.scanCommand_keeps (h : CommandEffect s i t) (hi : isScanCommand i = true) :
    t.blk = s.blk ∧ t.width = s.width ∧ t.height = s.height ∧ ∀ q, i ≠ .scanRdbuf q → t.seq q = s.seq q := by
  have hdims : ¬ (t.width ≠ s.width ∨ t.height ≠ s.height) := fun hne => by
    obtain ⟨x, y, rfl⟩ := h.dims_writer hne
    exact Bool.false_ne_true hi
  simp only [not_or, not_not] at hdims
  refine ⟨?_, hdims.1, hdims.2, fun q hq => ?_⟩
  · by_contra hne
    rcases h.blk_writer hne with ⟨x0, y0, rfl⟩ | htransform
    · exact Bool.false_ne_true hi
    · have hno : ∀ j ∈ [Instr.dctFwd, .dctInv, .qnt, .dqnt, .xfmFwd, .xfmInv], isScanCommand j = false := by decide
      exact Bool.false_ne_true ((hno i htransform).symm.trans hi)
  · by_contra hne
    rcases h.seq_writer hne with rfl | hmutates | rfl
    · exact Bool.false_ne_true hi
    · cases hmutates <;> exact Bool.false_ne_true hi
    · exact hq rfl

/-- What every scanner command but SCAN.INIT has in common: the scan goes no way back, and a word is as it was, or is that of a
position ahead, with a bit rewritten (44_scanner.md R203). -/
structure State.ScanMoved (s t : State) : Prop where
  passed : s.blocksPassed ≤ t.blocksPassed
  word : ∀ a, t.planeAt a = s.planeAt a ∨
    a ∈ s.eligibleAhead ∧ ∃ b, t.planeAt a = rewriteBit s.num (s.planeAt a) s.order.toNat b

namespace State.ScanMoved

theorem refl (s : State) : s.ScanMoved s := ⟨le_rfl, fun _ => .inl rfl⟩

theorem raise (h : s.ScanMoved t) (k : ErrCode) (r : Word) : s.ScanMoved (t.raise k r) := ⟨h.passed, h.word⟩

theorem atEnd (h : s.ScanMoved t) (ht : t.Inv) : s.ScanMoved t.atEnd :=
  ⟨h.passed.trans ht.blocksPassed_atEnd, fun a => by rw [t.planeAt_atEnd]; exact h.word a⟩

theorem of_walked (h : s.Walked n t) (hplane : t.plane = s.plane) : s.ScanMoved t :=
  ⟨h.passed, fun a => .inl (h.planeAt_of_plane_eq hplane a)⟩

theorem of_written (h : s.Written bit n t) : s.ScanMoved t := ⟨h.passed, h.word_cases⟩

end State.ScanMoved

theorem AnswersPositions.scanMoved (hi : AnswersPositions i answer) (h : s.Inv) (hexec : exec i s = .next t) :
    s.ScanMoved t := by
  obtain ⟨hnext, hend⟩ := hi s h
  cases hE : s.eligibleAhead with
  | nil =>
    rw [eq_of_next ((hend hE).symm.trans hexec)]
    exact ((State.ScanMoved.refl s).atEnd h).raise _ _
  | cons a rest =>
    obtain ⟨-, -, hwalked⟩ := (State.Walked.zero h).next (hE ▸ Nat.zero_lt_succ _)
    rw [eq_of_next ((hnext a rest hE).symm.trans hexec)]
    rw [hE] at hwalked
    exact (State.ScanMoved.of_walked hwalked rfl).raise .ok _

theorem exec_scanMoved (h : s.Inv) (hi : isScanCommand i = true) (hinit : ∀ o, i ≠ .scanInit o)
    (hexec : exec i s = .next t) : s.ScanMoved t := by
  cases i with
  | scanInit o => exact absurd rfl (hinit o)
  | scanAdv => exact scanAdv_answersPositions.scanMoved h hexec
  | scanRdbit => exact scanRdbit_answersPositions.scanMoved h hexec
  | scanWrbit b =>
    cases hE : s.eligibleAhead with
    | nil =>
      rw [eq_of_next ((exec_scanWrbit_of_nil h hE b).symm.trans hexec)]
      exact ((State.ScanMoved.refl s).atEnd h).raise _ _
    | cons a rest =>
      have hwritten := (State.Written.zero (fun _ => b) h).next (hE ▸ Nat.zero_lt_succ _)
      rw [eq_of_next ((exec_scanWrbit_of_cons h hE b).symm.trans hexec)]
      rw [hE] at hwritten
      exact (State.ScanMoved.of_written hwritten).raise .ok _
  | scanStat =>
    rw [eq_of_next hexec]
    exact (State.ScanMoved.refl s).raise .ok _
  | scanWrbuf q =>
    rcases exec_scanWrbuf_cases h q with ⟨-, u, hrun, hu, -⟩ | ⟨-, u, hrun, hu⟩ <;> rw [eq_of_next (hrun.symm.trans hexec)]
    · exact (State.ScanMoved.of_written hu).raise .ok _
    · exact ((State.ScanMoved.of_written hu).atEnd hu.inv).raise _ _
  | scanRdbuf q =>
    rcases exec_scanRdbuf_cases h q with ⟨-, u, hrun, hu⟩ | ⟨-, u, hrun, hu⟩ <;> rw [eq_of_next (hrun.symm.trans hexec)]
    · exact ((State.ScanMoved.of_walked hu.toWalked hu.plane).atEnd hu.inv).raise .ok _
    · exact (State.ScanMoved.of_walked hu.toWalked hu.plane).raise _ _
  | scanCount o =>
    rw [(State.onPlane_next hexec).2]
    split
    · exact (State.ScanMoved.refl s).raise .ok _
    · exact (State.ScanMoved.refl s).raise _ _
  | _ => exact absurd hi Bool.false_ne_true

/-! What it reads. -/

/-- `s'` is `s` but for words of the plane that are no full block's DC word. -/
def State.DcAgree (s s' : State) : Prop :=
  (∃ p, s' = { s with plane := p }) ∧ ∀ a ∈ dcAddrs s.width.toNat s.height.toNat, s'.planeAt a = s.planeAt a

namespace State.DcAgree

theorem raise (h : s.DcAgree s') (k : ErrCode) (r : Word) : (s.raise k r).DcAgree (s'.raise k r) := by
  obtain ⟨⟨p, rfl⟩, hdc⟩ := h
  exact ⟨⟨p, rfl⟩, hdc⟩

theorem pastWord (h : s.DcAgree s') (a : Nat) : (s.pastWord a).DcAgree (s'.pastWord a) := by
  obtain ⟨⟨p, rfl⟩, hdc⟩ := h
  exact ⟨⟨p, rfl⟩, hdc⟩

theorem scanStart (h : s.DcAgree s') (o : Nat) : (s.scanStart o).DcAgree (s'.scanStart o) := by
  obtain ⟨⟨p, rfl⟩, hdc⟩ := h
  exact ⟨⟨p, rfl⟩, hdc⟩

theorem atEnd (h : s.DcAgree s') : s.atEnd.DcAgree s'.atEnd := by
  obtain ⟨⟨p, rfl⟩, hdc⟩ := h
  unfold State.atEnd
  split <;> exact ⟨⟨p, rfl⟩, hdc⟩

theorem setSeq (h : s.DcAgree s') (q : SeqId) (v : BitSeq) : (s.setSeq q v).DcAgree (s'.setSeq q v) := by
  obtain ⟨⟨p, rfl⟩, hdc⟩ := h
  cases q <;> exact ⟨⟨p, rfl⟩, hdc⟩

theorem seq (h : s.DcAgree s') (q : SeqId) : s'.seq q = s.seq q := by
  obtain ⟨⟨p, rfl⟩, -⟩ := h
  cases q <;> rfl

theorem params (h : s.DcAgree s') : s'.params = s.params := by
  obtain ⟨⟨p, rfl⟩, -⟩ := h
  rfl

theorem bitCap (h : s.DcAgree s') : s'.bitCap = s.bitCap := by
  rw [State.bitCap, State.bitCap, h.params]

theorem width (h : s.DcAgree s') : s'.width = s.width := by
  obtain ⟨⟨p, rfl⟩, -⟩ := h
  rfl

theorem height (h : s.DcAgree s') : s'.height = s.height := by
  obtain ⟨⟨p, rfl⟩, -⟩ := h
  rfl

theorem eligibleAt (h : s.DcAgree s') (ha : a ∈ dcAddrs s.width.toNat s.height.toNat) (o : Nat) :
    s'.eligibleAt o a = s.eligibleAt o a := by
  obtain ⟨⟨p, rfl⟩, hdc⟩ := h
  rw [State.eligibleAt, State.eligibleAt, hdc a ha]

theorem bitAt (h : s.DcAgree s') (ha : a ∈ dcAddrs s.width.toNat s.height.toNat) : s'.bitAt a = s.bitAt a := by
  obtain ⟨⟨p, rfl⟩, hdc⟩ := h
  rw [State.bitAt, State.bitAt, hdc a ha]

/-- The scan sees the same positions (44_scanner.md R203). -/
theorem eligibleAhead (h : s.DcAgree s') : s'.eligibleAhead = s.eligibleAhead := by
  have hahead : s'.ahead = s.ahead := by
    obtain ⟨⟨p, rfl⟩, -⟩ := h
    rfl
  have horder : s'.order = s.order := by
    obtain ⟨⟨p, rfl⟩, -⟩ := h
    rfl
  rw [State.eligibleAhead, State.eligibleAhead, hahead, horder]
  exact List.filter_congr fun a ha => h.eligibleAt (State.mem_ahead ha) _

theorem bitWrittenAt (h : s.DcAgree s') (ha : a ∈ dcAddrs s.width.toNat s.height.toNat) (b : Bool) :
    (s.bitWrittenAt a b).DcAgree (s'.bitWrittenAt a b) := by
  have hbit := h.bitAt ha
  obtain ⟨⟨p, rfl⟩, hdc⟩ := h
  refine ⟨⟨_, by rw [State.bitWrittenAt, hbit]; rfl⟩, fun a' ha' => ?_⟩
  by_cases hne : a' = a
  · rw [hne, State.planeAt_bitWrittenAt_same, State.planeAt_bitWrittenAt_same, hdc a ha]
  · rw [State.planeAt_bitWrittenAt_other _ _ hne, State.planeAt_bitWrittenAt_other _ _ hne]
    exact hdc a' ha'

theorem writeSeq (h : s.DcAgree s') (hs : s.Inv) (hs' : s'.Inv) (v : BitSeq) (left n : Nat) :
    (State.writeSeq v left n s').2 = (State.writeSeq v left n s).2 ∧
      (State.writeSeq v left n s).1.DcAgree (State.writeSeq v left n s').1 := by
  induction left generalizing n s s' with
  | zero => exact ⟨rfl, h⟩
  | succ left ih =>
    cases hE : s.eligibleAhead with
    | nil =>
      rw [State.writeSeq, State.writeSeq, hs.writeBit_of_nil hE, hs'.writeBit_of_nil (h.eligibleAhead.trans hE)]
      exact ⟨rfl, h.atEnd⟩
    | cons a rest =>
      have hE' := h.eligibleAhead.trans hE
      obtain ⟨ha, -⟩ := State.mem_eligibleAhead (hE ▸ List.mem_cons_self)
      rw [State.writeSeq, State.writeSeq, hs.writeBit_of_cons hE, hs'.writeBit_of_cons hE']
      exact ih (h.bitWrittenAt ha _) (hs.bitWrittenAt hE _) (hs'.bitWrittenAt hE' _) (n + 1)

theorem bitReadInto (h : s.DcAgree s') (q : SeqId) (ha : a ∈ dcAddrs s.width.toNat s.height.toNat) :
    (s.bitReadInto q a).DcAgree (s'.bitReadInto q a) := by
  rw [State.bitReadInto, State.bitReadInto, h.seq q, h.bitAt ha]
  exact (h.pastWord a).setSeq q _

theorem readSeq (h : s.DcAgree s') (hs : s.Inv) (hs' : s'.Inv) (n : Nat) (hroom : (s.seq q).length + room ≤ s.bitCap) :
    (State.readSeq q room n s).DcAgree (State.readSeq q room n s') := by
  induction room generalizing n s s' with
  | zero => exact h.raise _ _
  | succ room ih =>
    cases hE : s.eligibleAhead with
    | nil =>
      rw [hs.readSeq_of_nil hE, hs'.readSeq_of_nil (h.eligibleAhead.trans hE)]
      exact h.atEnd.raise .ok _
    | cons a rest =>
      have hE' := h.eligibleAhead.trans hE
      obtain ⟨ha, -⟩ := State.mem_eligibleAhead (hE ▸ List.mem_cons_self)
      obtain ⟨hlen, -⟩ := State.seq_bitReadInto (s := s) (q := q) a (by omega)
      have hroom' : (s'.seq q).length < s'.bitCap := by
        rw [h.seq q, h.bitCap]
        omega
      rw [hs.readSeq_of_cons hE, hs'.readSeq_of_cons hE']
      refine ih (h.bitReadInto q ha) (hs.bitReadInto hE (by omega)) (hs'.bitReadInto hE' hroom') (n + 1) ?_
      rw [hlen, State.bitReadInto, State.setSeq_bitCap, State.pastWord, State.setCursor_bitCap]
      omega

end State.DcAgree

/-- A command that only moves the scan, whose answer is read off the word it finds. -/
theorem AnswersPositions.exec_dcAgree (hi : AnswersPositions i answer) (h : s.DcAgree s') (hs : s.Inv) (hs' : s'.Inv)
    (hanswer : ∀ a ∈ dcAddrs s.width.toNat s.height.toNat, answer s' a = answer s a) (hexec : exec i s = .next t) :
    ∃ u, exec i s' = .next u ∧ t.DcAgree u := by
  obtain ⟨hnext, hend⟩ := hi s hs
  obtain ⟨hnext', hend'⟩ := hi s' hs'
  cases hE : s.eligibleAhead with
  | nil =>
    rw [eq_of_next ((hend hE).symm.trans hexec)]
    exact ⟨_, hend' (h.eligibleAhead.trans hE), h.atEnd.raise _ _⟩
  | cons a rest =>
    obtain ⟨ha, -⟩ := State.mem_eligibleAhead (hE ▸ List.mem_cons_self)
    rw [eq_of_next ((hnext a rest hE).symm.trans hexec)]
    refine ⟨_, hnext' a rest (h.eligibleAhead.trans hE), ?_⟩
    rw [hanswer a ha]
    exact (h.pastWord a).raise .ok _

/-- No scanner command looks at another word (44_scanner.md R203). -/
theorem exec_dcAgree (h : s.DcAgree s') (hs : s.Inv) (hs' : s'.Inv) (hi : isScanCommand i = true)
    (hexec : exec i s = .next t) : ∃ u, exec i s' = .next u ∧ t.DcAgree u := by
  have hlegal : ∀ o, s'.orderLegal o = s.orderLegal o := fun o => by
    rw [State.orderLegal, State.orderLegal, State.orderMax, State.orderMax, h.params]
  cases i with
  | scanInit o =>
    rw [eq_of_next hexec]
    refine ⟨_, rfl, ?_⟩
    rw [hlegal]
    split
    · exact h.scanStart o
    · exact h.raise _ _
  | scanAdv => exact scanAdv_answersPositions.exec_dcAgree h hs hs' (fun _ _ => rfl) hexec
  | scanRdbit =>
    exact scanRdbit_answersPositions.exec_dcAgree h hs hs' (fun _ ha => congrArg bitWord (h.bitAt ha)) hexec
  | scanWrbit b =>
    cases hE : s.eligibleAhead with
    | nil =>
      rw [eq_of_next ((exec_scanWrbit_of_nil hs hE b).symm.trans hexec)]
      exact ⟨_, exec_scanWrbit_of_nil hs' (h.eligibleAhead.trans hE) b, h.atEnd.raise _ _⟩
    | cons a rest =>
      obtain ⟨ha, -⟩ := State.mem_eligibleAhead (hE ▸ List.mem_cons_self)
      rw [eq_of_next ((exec_scanWrbit_of_cons hs hE b).symm.trans hexec)]
      refine ⟨_, exec_scanWrbit_of_cons hs' (h.eligibleAhead.trans hE) b, ?_⟩
      rw [h.bitAt ha]
      exact (h.bitWrittenAt ha b).raise .ok _
  | scanStat =>
    rw [eq_of_next hexec]
    obtain ⟨⟨p, rfl⟩, hdc⟩ := h
    exact ⟨_, rfl, ⟨p, rfl⟩, hdc⟩
  | scanWrbuf q =>
    have harm : ∀ v, exec (.scanWrbuf q) v = execScanWrbuf q v := fun _ => rfl
    obtain ⟨hend, hdone⟩ := h.writeSeq hs hs' (s.seq q) (s.seq q).length 0
    rw [harm, execScanWrbuf, hs.onScan] at hexec
    rw [harm, execScanWrbuf, hs'.onScan, h.seq q, eq_of_next hexec]
    refine ⟨_, rfl, ?_⟩
    generalize State.writeSeq (s.seq q) (s.seq q).length 0 s = walk at hend hdone
    generalize State.writeSeq (s.seq q) (s.seq q).length 0 s' = walk' at hend hdone
    obtain ⟨v, r⟩ := walk
    obtain ⟨v', r'⟩ := walk'
    obtain rfl : r' = r := hend
    cases r' with
    | none => exact hdone.raise .ok _
    | some n => exact hdone.raise _ _
  | scanRdbuf q =>
    obtain ⟨hlen, -⟩ := hs.seq q
    rw [exec_scanRdbuf hs] at hexec
    rw [exec_scanRdbuf hs', h.seq q, h.bitCap, eq_of_next hexec]
    exact ⟨_, rfl, h.readSeq hs hs' 0 (by omega)⟩
  | scanCount o =>
    have harm : ∀ v, exec (.scanCount o) v = execScanCount o v := fun _ => rfl
    have hcount : (dcAddrs s'.width.toNat s'.height.toNat).countP (s'.eligibleAt o) =
        (dcAddrs s.width.toNat s.height.toNat).countP (s.eligibleAt o) := by
      rw [h.width, h.height]
      exact List.countP_congr fun a ha => by rw [h.eligibleAt ha]
    rw [harm, execScanCount, State.onPlane_of_fit _ hs.dims] at hexec
    rw [harm, execScanCount, State.onPlane_of_fit _ hs'.dims, hlegal, hcount, eq_of_next hexec]
    refine ⟨_, rfl, ?_⟩
    split
    · exact h.raise .ok _
    · exact h.raise _ _
  | _ => exact absurd hi Bool.false_ne_true

/-- Settles O57: the writers of each register, what a walk does to a word, and two planes that differ elsewhere. -/
theorem scannerWritesOnlyEligibleDcWords : Obligations.ScannerWritesOnlyEligibleDcWords := by
  intro i s t h hi hexec
  obtain ⟨hblk, hwidth, hheight, hseq⟩ := (exec_effect hexec).scanCommand_keeps hi
  refine ⟨hblk, hwidth, hheight, hseq, fun hinit => (exec_scanMoved h hi hinit hexec).passed, fun a hne => ?_,
    fun p hp hdc => ?_⟩
  · have hinit : ∀ o, i ≠ .scanInit o := by
      rintro o rfl
      rcases (exec_effect hexec).plane_writer ⟨a, hne⟩ with ⟨_, _, heq⟩ | ⟨_, heq⟩ | ⟨_, heq⟩ <;> cases heq
    obtain ⟨hahead, b, hword⟩ := ((exec_scanMoved h hi hinit hexec).word a).resolve_left hne
    obtain ⟨hdc, helig⟩ := State.mem_eligibleAhead hahead
    obtain ⟨hnew, -, hsign, hfrac, hbits, -⟩ :=
      writtenBitReadsBackExactly s.num (s.planeAt a) s.order.toNat b (Nat.le_of_lt_succ s.order.isLt) helig
    rw [hword]
    exact ⟨hdc, helig, hnew, hsign, hfrac, hbits⟩
  · obtain ⟨u, hrun, ⟨m, rfl⟩, hagree⟩ := exec_dcAgree ⟨⟨p, rfl⟩, hdc⟩ h hp hi hexec
    rw [hwidth, hheight] at hagree
    exact ⟨_, hrun, rfl, hagree⟩

end Sys2Proof.Machine
end

section
/-! PROOFS. SCAN.STAT: the quotient of two counters as a number (44_scanner.md R196). Rounding never passes a number of the format,
so the ratio stays between 0 and 1. -/

namespace Sys2Proof.Machine

variable {f : NumFormat} {num num' den m n k : Nat}

/-! Rounding keeps the order (40_block_transform.md R101). -/

theorem roundPattern_le (hden : 0 < den) (h : num ≤ patternUnits f m * den) : roundPattern f num den ≤ m := by
  by_contra hlt
  obtain ⟨hnear, -⟩ := roundPattern_nearest f num hden m
  have hless := Nat.mul_lt_mul_of_pos_right (patternUnits_strictMono f (Nat.lt_of_not_le hlt)) hden
  simp only [patternGap] at hnear
  omega

theorem le_roundPattern (hden : 0 < den) (h : patternUnits f m * den ≤ num) : m ≤ roundPattern f num den := by
  by_contra hlt
  obtain ⟨hnear, -⟩ := roundPattern_nearest f num hden m
  have hless := Nat.mul_lt_mul_of_pos_right (patternUnits_strictMono f (Nat.lt_of_not_le hlt)) hden
  simp only [patternGap] at hnear
  omega

/-- A quotient that is a number of the format is not rounded. -/
theorem roundPattern_exact (f : NumFormat) (m : Nat) (hden : 0 < den) : roundPattern f (patternUnits f m * den) den = m :=
  Nat.le_antisymm (roundPattern_le hden le_rfl) (le_roundPattern hden le_rfl)

/-- If a larger exact result were rounded to a smaller number, both would lie in the middle between the two. -/
theorem roundPattern_mono (hden : 0 < den) (h : num ≤ num') : roundPattern f num den ≤ roundPattern f num' den := by
  rcases Nat.eq_or_lt_of_le h with rfl | hlt
  · exact le_rfl
  · by_contra hcross
    obtain ⟨hnear, -⟩ := roundPattern_nearest f num hden (roundPattern f num' den)
    obtain ⟨hnear', -⟩ := roundPattern_nearest f num' hden (roundPattern f num den)
    have hless := Nat.mul_lt_mul_of_pos_right (patternUnits_strictMono f (Nat.lt_of_not_le hcross)) hden
    simp only [patternGap] at hnear hnear'
    omega

/-! 1.0, and the counters as numbers. -/

/-- The bits of 1.0. -/
theorem exists_one_pattern (f : NumFormat) : ∃ p, patternUnits f p = unitScale f := by
  obtain ⟨p, hp⟩ := exists_patternUnits f f.unitExp (n := 1) (byte_le_significand f (by decide))
  exact ⟨p, hp.trans (Nat.one_mul _)⟩

/-- 1.0 in the default format. -/
theorem ofInt_one_binary64 : ofInt .binary64 1 = 0x3FF0000000000000 := by
  have hsig : IsSignificand .binary64 1022 (2 ^ 52) := ⟨.inr le_rfl, by decide⟩
  have hpow : ∀ k : Nat, 1 * 2 ^ (k + 52) = 2 ^ 52 * 2 ^ k := fun k => by ring
  have hexp : NumFormat.binary64.unitExp = 1022 + 52 := rfl
  have hofInt := ofInt_natCast .binary64 1
  rw [unitScale, hexp, hpow, ← patternUnits_of_isSignificand hsig, roundUnits_patternUnits (by decide)] at hofInt
  exact hofInt

/-- A counter as a number, rounded where the format does not hold 32 bits, is finite in every format. -/
theorem ofInt_counter (f : NumFormat) (hn : n < 2 ^ 32) :
    isFinite f (ofInt f (n : Int)) ∧ isNegative f (ofInt f (n : Int)) = false ∧
      units f (ofInt f (n : Int)) = patternUnits f (roundPattern f (n * unitScale f) 1) := by
  obtain ⟨top, htop⟩ := exists_patternUnits f (32 + f.unitExp) (n := 1) (byte_le_significand f (by decide))
  have htopLt : top < infMagnitude f := by
    rw [← (patternUnits_strictMono f).lt_iff_lt, htop, patternUnits_infMagnitude]
    have hstep : 2 ^ (32 + f.unitExp) < 2 ^ (f.expMax - 2) := Nat.pow_lt_pow_right (by decide) (by cases f <;> decide)
    exact Nat.mul_lt_mul_of_le_of_lt (by have := Nat.two_pow_pos f.fracBits; omega) hstep (by positivity)
  have hle : roundPattern f (n * unitScale f) 1 ≤ top := by
    refine roundPattern_le Nat.one_pos ?_
    rw [htop, Nat.pow_add, Nat.mul_one, Nat.one_mul]
    exact Nat.mul_le_mul_right _ hn.le
  have hlt := hle.trans_lt htopLt
  have hround : roundUnits f (n * unitScale f) 1 = roundPattern f (n * unitScale f) 1 := by
    rw [roundUnits_eq, Nat.min_eq_left hlt.le]
  have hbits := magBits_withSign f false (hlt.trans (infMagnitude_lt f))
  rw [ofInt_natCast, hround, isFinite_iff, hbits, units_eq, hbits]
  exact ⟨hlt, isNegative_withSign f false (hlt.trans (infMagnitude_lt f)), rfl⟩

theorem units_ofInt_mono (hle : m ≤ n) (hn : n < 2 ^ 32) :
    units f (ofInt f (m : Int)) ≤ units f (ofInt f (n : Int)) := by
  obtain ⟨-, -, hm⟩ := ofInt_counter f (hle.trans_lt hn)
  obtain ⟨-, -, hn⟩ := ofInt_counter f hn
  rw [hm, hn]
  exact (patternUnits_strictMono f).monotone (roundPattern_mono Nat.one_pos (Nat.mul_le_mul_right _ hle))

theorem units_ofInt_pos (hpos : 0 < n) (hn : n < 2 ^ 32) : 0 < units f (ofInt f (n : Int)) := by
  obtain ⟨-, hunits, -⟩ := ofInt_natCast_exact (f := f) (m := 1) (byte_le_significand f (by decide))
  refine Nat.lt_of_lt_of_le ?_ (units_ofInt_mono hpos hn)
  rw [hunits, Nat.one_mul]
  exact unitScale_pos f

/-! The ratio of two counters. -/

/-- `CHG / ENC`, rounded once (44_scanner.md R196). -/
theorem fdiv_counters (hk : k < 2 ^ 32) (hpos : 0 < n) (hn : n < 2 ^ 32) :
    fdiv f (ofInt f (k : Int)) (ofInt f (n : Int)) =
      withSign f false
        (roundUnits f (units f (ofInt f (k : Int)) * unitScale f) (units f (ofInt f (n : Int)))) := by
  obtain ⟨hkFinite, hkSign, -⟩ := ofInt_counter f hk
  obtain ⟨hnFinite, hnSign, -⟩ := ofInt_counter f hn
  rw [fdiv_finite hkFinite hnFinite (units_ofInt_pos hpos hn).ne', hkSign, hnSign, Bool.xor_false]

theorem fdiv_counters_zero (f : NumFormat) (hpos : 0 < n) (hn : n < 2 ^ 32) :
    fdiv f (ofInt f (0 : Nat)) (ofInt f (n : Int)) = 0 := by
  obtain ⟨-, hunits, -⟩ := ofInt_natCast_exact (f := f) (m := 0) (Nat.zero_le _)
  rw [fdiv_counters (by decide) hpos hn, hunits, Nat.zero_mul, Nat.zero_mul, roundUnits_zero, withSign_false_zero]

/-- A number over itself is 1.0. -/
theorem fdiv_counters_self (f : NumFormat) (hpos : 0 < n) (hn : n < 2 ^ 32) :
    fdiv f (ofInt f (n : Int)) (ofInt f (n : Int)) = ofInt f (1 : Nat) := by
  obtain ⟨p, hp⟩ := exists_one_pattern f
  have hone : roundPattern f (1 * unitScale f) 1 = p := by
    rw [← hp, Nat.mul_comm]
    exact roundPattern_exact f p Nat.one_pos
  rw [fdiv_counters hn hpos hn, ofInt_natCast f 1, roundUnits_eq, roundUnits_eq, hone, Nat.mul_comm, ← hp,
    roundPattern_exact f p (units_ofInt_pos hpos hn)]

/-- The ratio is a number from 0 to 1. -/
theorem fdiv_counters_le_one (f : NumFormat) (hle : k ≤ n) (hpos : 0 < n) (hn : n < 2 ^ 32) :
    isNaN f (fdiv f (ofInt f (k : Int)) (ofInt f (n : Int))) = false ∧
      isNegative f (fdiv f (ofInt f (k : Int)) (ofInt f (n : Int))) = false ∧
      units f (fdiv f (ofInt f (k : Int)) (ofInt f (n : Int))) ≤ unitScale f := by
  obtain ⟨p, hp⟩ := exists_one_pattern f
  rw [fdiv_counters (hle.trans_lt hn) hpos hn]
  refine ⟨isNaN_roundUnits f _ _ _, isNegative_withSign f false (roundUnits_lt f _ _), ?_⟩
  rw [units_eq, magBits_withSign f false (roundUnits_lt f _ _), ← hp]
  refine (patternUnits_strictMono f).monotone ((Nat.min_le_left _ _).trans ?_)
  refine roundPattern_le (units_ofInt_pos hpos hn) ?_
  rw [Nat.mul_comm]
  exact Nat.mul_le_mul_left _ (units_ofInt_mono hle hn)

/-- Settles O51: the branches of R196, and the ratio of two 32-bit counters. -/
theorem scanStatReturnsRatio : Obligations.ScanStatReturnsRatio := by
  intro s
  have henc := s.enc.isLt
  have hpos : s.enc ≠ 0 → 0 < s.enc.toNat := fun hne =>
    Nat.pos_of_ne_zero fun hzero => hne (BitVec.eq_of_toNat_eq hzero)
  refine ⟨_, rfl, rfl, fun hzero => if_pos hzero, fun hne => if_neg hne, fun hne hchg => ?_, fun hne hall => ⟨?_, fun hnum => ?_⟩,
    fun hle => ?_⟩
  all_goals rw [State.ret_result]
  · rw [if_neg hne, hchg]
    exact fdiv_counters_zero s.num (hpos hne) henc
  · rw [if_neg hne, hall]
    exact fdiv_counters_self s.num (hpos hne) henc
  · rw [if_neg hne, hall, fdiv_counters_self s.num (hpos hne) henc, hnum]
    exact ofInt_one_binary64
  · split
    · rw [units_zero]
      exact ⟨not_isNaN_of_isFinite (isFinite_zero _), isNegative_zero _, Nat.zero_le _⟩
    · rename_i hne
      exact fdiv_counters_le_one s.num hle (hpos hne) henc

end Sys2Proof.Machine
end

section
/-! PROOFS. FRM.CAP, the capacity arithmetic (45_framing.md R220, R224). -/

namespace Sys2Proof.Machine

variable {n : Int}

theorem exec_frmCap (n : Int) (s : State) :
    exec (.frmCap n) s = .next (s.ret (BitVec.ofInt 64 (capacityBytes n))) := rfl

/-- Truncation toward zero is the floor of the magnitude's quotient, with the operand's sign (45_framing.md R220). -/
theorem capacityBytes_cases (n : Int) :
    (0 ≤ n ∧ capacityBytes n = n / 14 - 4) ∨ (n < 0 ∧ capacityBytes n = -(-n / 14) - 4) := by
  have hdef : capacityBytes n = n.tdiv 14 - 4 := rfl
  rcases le_or_gt 0 n with hn | hn
  · exact .inl ⟨hn, by rw [hdef, Int.tdiv_eq_ediv_of_nonneg hn]⟩
  · have hneg : n.tdiv 14 = -(-n / 14) := by
      rw [← Int.tdiv_eq_ediv_of_nonneg (by omega), Int.neg_tdiv, neg_neg]
    exact .inr ⟨hn, by rw [hdef, hneg]⟩

/-- RESULT holds the capacity of any operand of 32 bits, sign-extended (45_framing.md R220). -/
theorem toInt_capacityBytes (hlow : -(2 ^ 31) ≤ n) (hhigh : n < 2 ^ 31) :
    (BitVec.ofInt 64 (capacityBytes n)).toInt = capacityBytes n := by
  refine BitVec.toInt_ofInt_eq_self (by decide) ?_ ?_ <;> rcases capacityBytes_cases n with ⟨hn, h⟩ | ⟨hn, h⟩ <;>
    rw [h] <;> omega

/-- Settles O58: RESULT is the capacity, and the quotient lies within a step of 14 of the operand, on the side of zero. -/
theorem frmCapTruncatesTowardZero : Obligations.FrmCapTruncatesTowardZero := by
  intro n s hlow hhigh
  refine ⟨_, exec_frmCap n s, rfl, ?_⟩
  rw [State.ret_result, toInt_capacityBytes hlow hhigh]
  rcases capacityBytes_cases n with ⟨hn, h⟩ | ⟨hn, h⟩ <;> rw [h] <;> omega

/-- Settles O59: the floor by 14 is monotone, and `14 * k` fits below `n` exactly when `k` is at most that floor. -/
theorem capacityIsMonotoneAndTight : Obligations.CapacityIsMonotoneAndTight := by
  intro n m s t u hlow hle hhigh ht hu
  rw [exec_frmCap] at ht hu
  rw [eq_of_next ht, eq_of_next hu, State.ret_result, State.ret_result, toInt_capacityBytes hlow (by omega),
    toInt_capacityBytes (by omega) hhigh]
  refine ⟨?_, fun hn => ?_, fun hn k => ?_⟩
  · have hm := capacityBytes_cases m
    rcases capacityBytes_cases n with ⟨hn, h⟩ | ⟨hn, h⟩ <;> rw [h] <;> omega
  · rcases capacityBytes_cases n with ⟨-, h⟩ | ⟨-, h⟩ <;> rw [h] <;> omega
  · rcases capacityBytes_cases n with ⟨-, h⟩ | ⟨hneg, -⟩
    · rw [h]
      omega
    · omega

end Sys2Proof.Machine
end

section
/-! PROOFS. What a host procedure comes to, command by command (45_framing.md R222, R223; 60_exceptions.md R243). -/

namespace Sys2Proof.Machine

variable {s t : State} {i : Instr} {is : List Instr}

theorem hostExec_of_next (hwf : i.wellFormed s.widths = true) (h : exec i s = .next t) : hostExec i s = .done t () := by
  rw [hostExec, if_pos hwf, h]

theorem hostCommand_of_ok (hwf : i.wellFormed s.widths = true) (h : exec i s = .next t) (herr : t.err = .ok) :
    hostCommand i s = .done t t.result := by
  rw [hostCommand, hostExec_of_next hwf h]
  exact if_pos herr

theorem hostCommand_of_error (hwf : i.wellFormed s.widths = true) (h : exec i s = .next t) (herr : t.err ≠ .ok) :
    hostCommand i s = .raised t := by
  rw [hostCommand, hostExec_of_next hwf h]
  exact if_neg herr

theorem hostCommands_of_ok (hwf : i.wellFormed s.widths = true) (h : exec i s = .next t) (herr : t.err = .ok) :
    hostCommands (i :: is) s = hostCommands is t := by
  rw [hostCommands, hostCommand_of_ok hwf h herr]
  rfl

theorem hostCommands_of_error (hwf : i.wellFormed s.widths = true) (h : exec i s = .next t) (herr : t.err ≠ .ok) :
    hostCommands (i :: is) s = .raised t := by
  rw [hostCommands, hostCommand_of_error hwf h herr]
  rfl

/-- Two lists of commands, the one after the other: the second is issued where the first completed. -/
theorem hostCommands_append (is js : List Instr) (s : State) :
    hostCommands (is ++ js) s = (hostCommands is s).bind fun t _ => hostCommands js t := by
  induction is generalizing s with
  | nil => rfl
  | cons i is ih =>
    rw [List.cons_append, hostCommands, hostCommands]
    cases hostCommand i s with
    | done t v => exact ih t
    | raised t => rfl
    | unencodable t => rfl
    | stopped => rfl

/-- Every block has sequence 0 (10_state.md R30). -/
theorem hasSeq_s0 (w : Widths) : w.hasSeq .s0 = true := by
  unfold Widths.hasSeq Widths.seqCount SeqId.number
  cases w.nbuf <;> rfl

/-- A legal order fits its field (30_encoding.md R77; 44_scanner.md R191). -/
theorem State.wellFormed_scanInit (s : State) {o : Nat} (ho : o ≤ s.orderMax) :
    (Instr.scanInit o).wellFormed s.widths = true := by
  have hlt : s.orderMax < 2 ^ 3 := s.params.orderMax.isLt
  exact decide_eq_true (by omega)

/-- `t` is `s` but for the sequences and the answer: the plane and the scan are as they were. -/
def State.SameMedium (s t : State) : Prop :=
  ∃ q0 q1 k r, t = { s with seq0 := q0, seq1 := q1, err := k, result := r }

namespace State.SameMedium

theorem refl (s : State) : s.SameMedium s := ⟨_, _, _, _, rfl⟩

theorem trans {u : State} (h : s.SameMedium t) (h' : t.SameMedium u) : s.SameMedium u := by
  obtain ⟨_, _, _, _, rfl⟩ := h
  obtain ⟨_, _, _, _, rfl⟩ := h'
  exact ⟨_, _, _, _, rfl⟩

theorem raise (h : s.SameMedium t) (k : ErrCode) (r : Word) : s.SameMedium (t.raise k r) := by
  obtain ⟨_, _, _, _, rfl⟩ := h
  exact ⟨_, _, _, _, rfl⟩

theorem ret (h : s.SameMedium t) (v : Word) : s.SameMedium (t.ret v) := h.raise .ok v

theorem setSeq (h : s.SameMedium t) (q : SeqId) (v : BitSeq) : s.SameMedium (t.setSeq q v) := by
  obtain ⟨_, _, _, _, rfl⟩ := h
  cases q <;> exact ⟨_, _, _, _, rfl⟩

theorem params (h : s.SameMedium t) : t.params = s.params := by
  obtain ⟨_, _, _, _, rfl⟩ := h
  rfl

theorem bitCap (h : s.SameMedium t) : t.bitCap = s.bitCap := congrArg (·.bitCap.toNat) h.params

theorem orderMax (h : s.SameMedium t) : t.orderMax = s.orderMax := congrArg (·.orderMax.toNat) h.params

theorem planeAt (h : s.SameMedium t) (a : Nat) : t.planeAt a = s.planeAt a := by
  obtain ⟨_, _, _, _, rfl⟩ := h
  rfl

theorem order (h : s.SameMedium t) : t.order = s.order := by
  obtain ⟨_, _, _, _, rfl⟩ := h
  rfl

theorem positions (h : s.SameMedium t) : t.positions = s.positions := by
  obtain ⟨_, _, _, _, rfl⟩ := h
  rfl

theorem eligibleAhead (h : s.SameMedium t) : t.eligibleAhead = s.eligibleAhead := by
  obtain ⟨_, _, _, _, rfl⟩ := h
  rfl

theorem bitAt (h : s.SameMedium t) : t.bitAt = s.bitAt := by
  obtain ⟨_, _, _, _, rfl⟩ := h
  rfl

end State.SameMedium

end Sys2Proof.Machine
end

section
/-! PROOFS. Bits appended to a sequence by a list of commands: HAM.PUTB for the bytes of a message, BB.APP for single bits
(42_bit_sequence.md R157; 43_hamming.md R176, R178). -/

namespace Sys2Proof.Machine

variable {s t : State} {q : SeqId} {f : Nat → Bool} {n m : Nat} {α : Type} {code : α → Nat} {cmd : α → Instr}

/-- The sequence holds the first `n` bits of the stream `f` and no more. -/
structure BitSeq.Holds (v : BitSeq) (f : Nat → Bool) (n : Nat) : Prop where
  length : v.length = n
  get : ∀ j, j < n → v.get j = f j

theorem BitSeq.Holds.empty (f : Nat → Bool) : BitSeq.empty.Holds f 0 := ⟨rfl, fun _ hj => absurd hj (Nat.not_lt_zero _)⟩

/-- The next `m` bits of the stream written at the end (42_bit_sequence.md R150). -/
theorem BitSeq.Holds.put {v : BitSeq} (h : v.Holds f n) {c : Nat} (hlt : n + m < 2 ^ 24)
    (hc : ∀ j, j < m → f (n + j) = c.testBit j) : (v.put v.length m c).Holds f (n + m) := by
  obtain ⟨hlen, hget⟩ := h
  refine ⟨?_, fun j hj => ?_⟩
  · rw [BitSeq.length_put _ _ _ _ (hlen ▸ hlt), hlen]
    split <;> omega
  · rw [BitSeq.get_put, hlen]
    by_cases hjn : j < n
    · rw [if_neg (by omega), hget j hjn]
    · rw [if_pos (by omega), ← hc _ (by omega), Nat.add_sub_cancel' (by omega)]

/-- The commands `cmd x`, on a block with the parameters `p`, append the `m` bits of `code x` to sequence `q`. -/
structure Appends (p : Params) (q : SeqId) (m : Nat) (code : α → Nat) (cmd : α → Instr) : Prop where
  wellFormed : ∀ x, (cmd x).wellFormed p.widths = true
  exec_eq : ∀ x s, s.params = p → exec (cmd x) s = .next (s.mutate q (s.seq q).length m (code x))

/-- HAM.PUTB (43_hamming.md R176). -/
theorem hamPutb_appends (p : Params) :
    Appends p .s0 14 (fun b : MessageByte => byteCode p b.toNat) fun b => .hamPutb .s0 b.toNat where
  wellFormed b := by simp [Instr.wellFormed, hasSeq_s0, fitsField, b.isLt]
  exec_eq b s hp := hp ▸ exec_hamPutb b.toNat

/-- BB.APP (42_bit_sequence.md R157). -/
theorem bbApp_appends (p : Params) : Appends p .s0 1 Bool.toNat (.bbApp .s0) where
  wellFormed _ := hasSeq_s0 _
  exec_eq b s _ := exec_bbApp s .s0 b

/-- One of the commands, where there is room for its bits. -/
theorem Appends.exec_holds (h : Appends s.params q m code cmd) (hs : s.Inv) (hseq : (s.seq q).Holds f n)
    (hcap : n + m ≤ s.bitCap) (x : α) (hcode : ∀ j, j < m → f (n + j) = (code x).testBit j) :
    ∃ t, exec (cmd x) s = .next t ∧ t.err = .ok ∧ s.SameMedium t ∧ t.Inv ∧ (t.seq q).Holds f (n + m) := by
  have hlt := s.bitCap_lt
  have hfits : (s.seq q).length + m ≤ s.bitCap := by rwa [hseq.length]
  refine ⟨_, h.exec_eq x s rfl, ?_⟩
  rw [State.mutate, if_neg (Nat.not_lt.mpr hfits)]
  refine ⟨rfl, ((State.SameMedium.refl s).setSeq q _).ret 0, (hs.setSeq_put q _ hfits).ret 0, ?_⟩
  rw [State.ret_seq, State.seq_setSeq_same]
  exact hseq.put (by omega) hcode

/-- The commands for a list, one after the other, where there is room for all their bits. -/
theorem Appends.run (h : Appends s.params q m code cmd) {xs : List α} (hs : s.Inv)
    (hseq : (s.seq q).Holds f n) (hcap : n + m * xs.length ≤ s.bitCap)
    (hcode : ∀ k (hk : k < xs.length) j, j < m → f (n + (m * k + j)) = (code xs[k]).testBit j) :
    ∃ t, hostCommands (xs.map cmd) s = .done t () ∧ s.SameMedium t ∧ t.Inv ∧ (t.seq q).Holds f (n + m * xs.length) := by
  induction xs generalizing s n with
  | nil => exact ⟨s, rfl, .refl s, hs, hseq⟩
  | cons x xs ih =>
    have hlen : n + m * (x :: xs).length = n + m + m * xs.length := by rw [List.length_cons, Nat.mul_succ]; omega
    rw [hlen] at hcap ⊢
    obtain ⟨t, hexec, herr, hsame, ht, hheld⟩ := h.exec_holds hs hseq (by omega) x
      fun j hj => by simpa using hcode 0 (Nat.zero_lt_succ _) j hj
    obtain ⟨u, hrun, hsame', hu, hheld'⟩ := ih (hsame.params ▸ h) ht hheld (hsame.bitCap ▸ hcap) fun k hk j hj => by
      have hnext := hcode (k + 1) (Nat.succ_lt_succ hk) j hj
      rwa [Nat.mul_succ, Nat.add_right_comm, Nat.add_comm _ m, ← Nat.add_assoc] at hnext
    exact ⟨u, (hostCommands_of_ok (h.wellFormed x) hexec herr).trans hrun, hsame.trans hsame', hu, hheld'⟩

/-- BB.NEW, then the commands for a list: sequence 0 holds their bits and nothing else. -/
theorem Appends.run_new (h : Appends s.params .s0 m code cmd) {xs : List α} (hs : s.Inv)
    (hcap : m * xs.length ≤ s.bitCap)
    (hcode : ∀ k (hk : k < xs.length) j, j < m → f (m * k + j) = (code xs[k]).testBit j) :
    ∃ t, hostCommands (.bbNew .s0 :: xs.map cmd) s = .done t () ∧ s.SameMedium t ∧ t.Inv ∧
      (t.seq .s0).Holds f (m * xs.length) := by
  have hsame := ((State.SameMedium.refl s).setSeq .s0 .empty).ret 0
  have hwf : (Instr.bbNew .s0).wellFormed s.widths = true := hasSeq_s0 _
  obtain ⟨t, hrun, hsame', ht, hheld⟩ := Appends.run (q := .s0) (n := 0) (f := f) (hsame.params ▸ h) (xs := xs)
    ((hs.setSeq .s0 (.empty _)).ret 0) (.empty f) (by rw [hsame.bitCap]; omega) (by simpa only [Nat.zero_add] using hcode)
  rw [Nat.zero_add] at hheld
  exact ⟨t, (hostCommands_of_ok hwf (exec_bbNew s .s0) rfl).trans hrun, hsame.trans hsame', ht, hheld⟩

end Sys2Proof.Machine
end

section
/-! PROOFS. A message imprinted piece by piece: the bits written so far, and what each piece adds (45_framing.md R221, R222;
44_scanner.md R197, R201). -/

namespace Sys2Proof.Machine

variable {s t u : State} {o n m : Nat} {f : Nat → Bool} {p : Params} {bytes : List MessageByte}
  {pieces : List (List MessageByte)}

/-! The bits of a message. -/

/-- The stream `f` begins with the code of the bytes, 14 bits each (43_hamming.md R178). -/
def CarriesMessage (p : Params) (f : Nat → Bool) (bytes : List MessageByte) : Prop :=
  ∀ k (hk : k < bytes.length) j, j < 14 → f (14 * k + j) = (byteCode p bytes[k].toNat).testBit j

/-- Bit `j` of an encoded message. -/
def messageBit (p : Params) (bytes : List MessageByte) (j : Nat) : Bool :=
  (byteCode p (bytes.getD (j / 14) 0).toNat).testBit (j % 14)

theorem carriesMessage_messageBit (p : Params) (bytes : List MessageByte) : CarriesMessage p (messageBit p bytes) bytes := by
  intro k hk j hj
  have hdiv : (14 * k + j) / 14 = k := by omega
  have hmod : (14 * k + j) % 14 = j := by omega
  rw [messageBit, hdiv, hmod, List.getD_eq_getElem _ _ hk]

/-- A message in two parts is the first part, then the second behind its bits. -/
theorem CarriesMessage.append {xs ys : List MessageByte} (h : CarriesMessage p f (xs ++ ys)) :
    CarriesMessage p f xs ∧ CarriesMessage p (fun j => f (14 * xs.length + j)) ys := by
  refine ⟨fun k hk j hj => ?_, fun k hk j hj => ?_⟩
  · have hbit := h k (by rw [List.length_append]; omega) j hj
    rwa [List.getElem_append_left hk] at hbit
  · have hbit := h (xs.length + k) (by rw [List.length_append]; omega) j hj
    rwa [List.getElem_append_right (Nat.le_add_right _ _), Nat.mul_add, Nat.add_assoc,
      getElem_congr_idx (Nat.add_sub_cancel_left _ _)] at hbit

/-- A piece loaded into sequence 0 (43_hamming.md R178; 45_framing.md R222). -/
theorem hostCommands_load (hs : s.Inv) (hcap : 14 * bytes.length ≤ s.bitCap) (h : CarriesMessage s.params f bytes) :
    ∃ t, hostCommands (.bbNew .s0 :: encMsg .s0 bytes) s = .done t () ∧ s.SameMedium t ∧ t.Inv ∧
      (t.seq .s0).Holds f (14 * bytes.length) :=
  (hamPutb_appends s.params).run_new hs hcap h

/-- The commands of one piece behind the first (45_framing.md R222; log 22). -/
def writePiece (bytes : List MessageByte) : List Instr := .bbNew .s0 :: encMsg .s0 bytes ++ [.scanWrbuf .s0]

/-- The commands of the pieces behind the first. -/
def writePieces (pieces : List (List MessageByte)) : List Instr := pieces.flatMap writePiece

theorem writePieces_cons (x : List MessageByte) (pieces : List (List MessageByte)) :
    writePieces (x :: pieces) = writePiece x ++ writePieces pieces := List.flatMap_cons

/-- `imprint` issues the listed sequence of R222 for the first piece, then the pieces behind it (45_framing.md R222; log 22). -/
theorem imprintCommands_of_pieces {cap : Nat} {first : List MessageByte}
    (h : piecesOf (max 1 (windowsOf cap)) (withTerminator bytes) = first :: pieces) :
    imprintCommands cap o bytes =
      (.bbNew .s0 :: encMsg .s0 first) ++ .scanInit o :: ([.scanWrbuf .s0] ++ writePieces pieces) := by
  rw [imprintCommands, h]
  exact List.append_assoc (.bbNew .s0 :: encMsg .s0 first) [.scanInit o, .scanWrbuf .s0] (writePieces pieces)

/-! The medium. -/

/-- Entry `j` of what is left of a list behind its first `n` entries. -/
theorem getD_drop (l : List Nat) (n j : Nat) : (l.drop n).getD j 0 = l.getD (n + j) 0 := by
  rw [List.getD_eq_getElem?_getD, List.getElem?_drop, ← List.getD_eq_getElem?_getD]

/-- The position a bit was written to carries it (41_order_predicate.md R143; 44_scanner.md R195, R201). -/
theorem State.Written.bitAt_eq (h : s.Written f n t) {j : Nat} (hj : j < n) (hpos : j < s.eligibleAhead.length) :
    t.bitAt (s.eligibleAhead.getD j 0) = f j := by
  obtain ⟨-, -, horder⟩ := h.toWalked.keeps
  have hmem : s.eligibleAhead.getD j 0 ∈ s.eligibleAhead := by
    rw [List.getD_eq_getElem _ _ hpos]
    exact List.getElem_mem _
  obtain ⟨-, helig⟩ := State.mem_eligibleAhead hmem
  obtain ⟨-, hback, -⟩ := writtenBitReadsBackExactly _ _ _ (f j) (Nat.le_of_lt_succ s.order.isLt) helig
  rw [State.bitAt, h.toWalked.num_eq, horder, h.word j hj, hback]

/-- Only the bits written matter. -/
theorem State.Written.congr {g : Nat → Bool} (h : s.Written f n t) (hfg : ∀ j, j < n → f j = g j) : s.Written g n t where
  toWalked := h.toWalked
  seq := h.seq
  word j hj := hfg j hj ▸ h.word j hj
  other := h.other
  enc := h.enc
  chg := h.chg.trans (congrArg _ (List.countP_congr fun j hj => by rw [hfg j (List.mem_range.mp hj)]))

/-- SCAN.INIT changes no sequence (44_scanner.md R191). -/
theorem State.scanStart_seq (s : State) (o : Nat) (q : SeqId) : (s.scanStart o).seq q = s.seq q := by cases q <;> rfl

/-- `t` is `s` with the first `n` bits of `f` written to the first `n` positions at order `o`, and the scan just behind them
(45_framing.md R222; 44_scanner.md R201). -/
structure State.Imprinted (s : State) (o : Nat) (f : Nat → Bool) (n : Nat) (t : State) : Prop where
  inv : t.Inv
  params : t.params = s.params
  order : t.order.toNat = o
  positions : t.positions o = s.positions o
  le : n ≤ (s.positions o).length
  ahead : t.eligibleAhead = (s.positions o).drop n
  bit : ∀ j, j < n → t.bitAt ((s.positions o).getD j 0) = f j

/-- What a run comes to that writes the bits of `f` below `n`: all of them are written, or the positions end
(45_framing.md R222). -/
def State.Imprints (s : State) (o : Nat) (f : Nat → Bool) (n : Nat) (r : HostRun Unit) : Prop :=
  (n ≤ (s.positions o).length → ∃ t, r = .done t () ∧ s.Imprinted o f n t) ∧
  ((s.positions o).length < n → ∃ t, r = .raised t ∧ t.err = .endOfMedium)

/-- More bits written behind the first ones. -/
theorem State.Imprints.bind {r : HostRun Unit} {next : State → Unit → HostRun Unit} (h : s.Imprints o f n r) (hle : n ≤ m)
    (hnext : ∀ t, s.Imprinted o f n t → s.Imprints o f m (next t ())) : s.Imprints o f m (r.bind next) := by
  obtain ⟨hfits, hshort⟩ := h
  rcases Nat.lt_or_ge (s.positions o).length n with hlt | hge
  · obtain ⟨t, rfl, herr⟩ := hshort hlt
    exact ⟨fun hm => absurd (hle.trans hm) (Nat.not_le.mpr hlt), fun _ => ⟨t, rfl, herr⟩⟩
  · obtain ⟨t, rfl, ht⟩ := hfits hge
    exact hnext t ht

namespace State.Imprinted

theorem orderMax (h : s.Imprinted o f n t) : t.orderMax = s.orderMax := congrArg (·.orderMax.toNat) h.params

/-- SCAN.INIT: nothing is written yet (44_scanner.md R191). -/
theorem scanStart (hsame : s.SameMedium t) (ht : t.Inv) (ho : o ≤ t.orderMax) : s.Imprinted o f 0 (t.scanStart o) where
  inv := ht.scanStart ho
  params := hsame.params
  order := t.scanStart_order ho
  positions := congrFun hsame.positions o
  le := Nat.zero_le _
  ahead := hsame.positions ▸ t.eligibleAhead_scanStart ho
  bit _ hj := absurd hj (Nat.not_lt_zero _)

/-- The sequences are no part of the medium. -/
theorem of_sameMedium (h : s.Imprinted o f n t) (hsame : t.SameMedium u) (hu : u.Inv) : s.Imprinted o f n u where
  inv := hu
  params := hsame.params.trans h.params
  order := hsame.order ▸ h.order
  positions := hsame.positions ▸ h.positions
  le := h.le
  ahead := hsame.eligibleAhead.trans h.ahead
  bit := hsame.bitAt ▸ h.bit

/-- The walk of SCAN.WRBUF writes behind what is written (44_scanner.md R197). -/
theorem written (h : s.Imprinted o f n t) (hu : t.Written (fun j => f (n + j)) m u)
    (hle : n + m ≤ (s.positions o).length) : s.Imprinted o f (n + m) u := by
  obtain ⟨hparams, -, horder⟩ := hu.toWalked.keeps
  have hpos : ∀ j, t.eligibleAhead.getD j 0 = (s.positions o).getD (n + j) 0 := fun j => by rw [h.ahead, getD_drop]
  have hpositions := hu.positions_eq
  rw [h.order] at hpositions
  refine ⟨hu.inv, hparams.trans h.params, horder ▸ h.order, hpositions.trans h.positions, hle, ?_, fun j hj => ?_⟩
  · rw [hu.ahead, h.ahead, List.drop_drop]
  · rcases Nat.lt_or_ge j n with hlt | hge
    · have hbehind : (s.positions o).getD j 0 ∉ t.eligibleAhead.take m := fun hmem => by
        have hdrop := List.mem_of_mem_take hmem
        rw [h.ahead] at hdrop
        obtain ⟨i, hi, heq⟩ := List.mem_drop_iff_getElem.mp hdrop
        rw [List.getD_eq_getElem _ _ (by omega)] at heq
        have hnodup : (s.positions o).Nodup := (nodup_dcAddrs _ _).filter _
        have hij := (hnodup.getElem_inj_iff).mp heq
        omega
      rw [← h.bit j hlt, State.bitAt, State.bitAt, hu.toWalked.num_eq, horder, hu.other _ hbehind]
    · obtain ⟨i, rfl⟩ := Nat.exists_eq_add_of_le hge
      rw [← hpos]
      exact hu.bitAt_eq (by omega) (by rw [h.ahead, List.length_drop]; omega)

/-- SCAN.WRBUF of a sequence that holds the bits behind those written (44_scanner.md R197). -/
theorem imprints_scanWrbuf (h : s.Imprinted o f n t) (hseq : (t.seq .s0).Holds (fun j => f (n + j)) m) :
    s.Imprints o f (n + m) (hostCommands [.scanWrbuf .s0] t) := by
  have hwf : (Instr.scanWrbuf .s0).wellFormed t.widths = true := hasSeq_s0 _
  have hcount : t.eligibleAhead.length = (s.positions o).length - n := by rw [h.ahead, List.length_drop]
  have hle := h.le
  rcases exec_scanWrbuf_cases h.inv .s0 with ⟨hfits, u, hexec, hu, -⟩ | ⟨hshort, u, hexec, -⟩
  · rw [hseq.length] at hfits hu
    refine ⟨fun hm => ⟨_, hostCommands_of_ok hwf hexec rfl, ?_⟩, fun hlt => absurd hlt (by omega)⟩
    exact h.written ((hu.congr hseq.get).ret _) hm
  · rw [hseq.length] at hshort
    exact ⟨fun hm => absurd hm (by omega), fun _ => ⟨_, hostCommands_of_error hwf hexec (by simp), rfl⟩⟩

/-- One piece behind the first: BB.NEW, its HAM.PUTBs, SCAN.WRBUF (45_framing.md R222; log 22). -/
theorem imprints_piece (h : s.Imprinted o f n t) (hcap : 14 * bytes.length ≤ s.bitCap)
    (hf : CarriesMessage s.params (fun j => f (n + j)) bytes) :
    s.Imprints o f (n + 14 * bytes.length) (hostCommands (writePiece bytes) t) := by
  obtain ⟨u, hload, hsame, hu, hseq⟩ :=
    hostCommands_load h.inv (by rwa [State.bitCap, h.params]) (h.params.symm ▸ hf)
  rw [writePiece, hostCommands_append, hload]
  exact (h.of_sameMedium hsame hu).imprints_scanWrbuf hseq

/-- The pieces behind the first, one after the other (45_framing.md R222; log 22). -/
theorem imprints_pieces (h : s.Imprinted o f n t) (hcap : ∀ x ∈ pieces, 14 * x.length ≤ s.bitCap)
    (hf : CarriesMessage s.params (fun j => f (n + j)) pieces.flatten) :
    s.Imprints o f (n + 14 * pieces.flatten.length) (hostCommands (writePieces pieces) t) := by
  induction pieces generalizing n t with
  | nil => exact ⟨fun _ => ⟨t, rfl, h⟩, fun hlt => absurd h.le (Nat.not_le.mpr hlt)⟩
  | cons x pieces ih =>
    obtain ⟨hx, hrest⟩ := hf.append
    have hlen : n + 14 * (x :: pieces).flatten.length = n + 14 * x.length + 14 * pieces.flatten.length := by
      rw [List.flatten_cons, List.length_append, Nat.mul_add, Nat.add_assoc]
    rw [hlen, writePieces_cons, hostCommands_append]
    refine (h.imprints_piece (hcap x List.mem_cons_self) hx).bind (Nat.le_add_right _ _) fun u hu => ?_
    exact ih hu (fun y hy => hcap y (List.mem_cons_of_mem _ hy)) (by simpa only [Nat.add_assoc] using hrest)

end State.Imprinted

/-! The pieces of a message. -/

theorem length_le_of_mem_piecesOf {α : Type} {size : Nat} {l x : List α} (h : x ∈ piecesOf size l) : x.length ≤ size := by
  obtain ⟨k, -, rfl⟩ := List.mem_map.mp h
  exact List.length_take_le _ _

/-- Pieces of one size after the other make up the beginning of the list. -/
theorem flatten_pieces {α : Type} (size : Nat) (l : List α) (count : Nat) :
    ((List.range count).map fun k => (l.drop (k * size)).take size).flatten = l.take (count * size) := by
  induction count with
  | zero => simp
  | succ count ih =>
    rw [List.range_succ, List.map_append, List.flatten_append, ih, Nat.succ_mul, List.take_add]
    simp

theorem flatten_piecesOf {α : Type} {size : Nat} (hsize : 0 < size) (l : List α) : (piecesOf size l).flatten = l := by
  have hround := Nat.lt_div_mul_add (a := l.length + size - 1) hsize
  rw [piecesOf, flatten_pieces, List.take_of_length_le (by omega)]

theorem length_withTerminator (bytes : List MessageByte) : (withTerminator bytes).length = bytes.length + 4 := by
  simp [withTerminator, Config.termBytes]

/-- `imprint` up to its SCAN.INIT: the first piece is loaded (45_framing.md R222). -/
theorem exists_imprint_start (o : Nat) (bytes : List MessageByte) (hs : s.Inv) (hcap : 14 ≤ s.bitCap) :
    ∃ (first : List MessageByte) (rest : List (List MessageByte)) (t : State),
      withTerminator bytes = first ++ rest.flatten ∧ (∀ x ∈ rest, 14 * x.length ≤ s.bitCap) ∧
      s.SameMedium t ∧ t.Inv ∧
      (t.seq .s0).Holds (messageBit s.params (withTerminator bytes)) (14 * first.length) ∧
      imprint o bytes s = hostCommands (.scanInit o :: ([.scanWrbuf .s0] ++ writePieces rest)) t := by
  have hsize : 0 < max 1 (windowsOf s.bitCap) := Nat.lt_of_lt_of_le Nat.zero_lt_one (Nat.le_max_left _ _)
  have hflat := flatten_piecesOf hsize (withTerminator bytes)
  have hfits : ∀ x ∈ piecesOf (max 1 (windowsOf s.bitCap)) (withTerminator bytes), 14 * x.length ≤ s.bitCap := by
    intro x hx
    have hlen := length_le_of_mem_piecesOf hx
    have hwindows : windowsOf s.bitCap = s.bitCap / 14 := rfl
    omega
  cases hpieces : piecesOf (max 1 (windowsOf s.bitCap)) (withTerminator bytes) with
  | nil =>
    have hlen := length_withTerminator bytes
    rw [← hflat, hpieces] at hlen
    exact nomatch hlen
  | cons first rest =>
    rw [hpieces] at hflat hfits
    rw [List.flatten_cons] at hflat
    have hcarries := carriesMessage_messageBit s.params (withTerminator bytes)
    rw [← hflat] at hcarries
    obtain ⟨t, hload, hsame, ht, hseq⟩ := hostCommands_load hs (hfits first List.mem_cons_self) hcarries.append.1
    refine ⟨first, rest, t, hflat.symm, fun x hx => hfits x (List.mem_cons_of_mem _ hx), hsame, ht, hflat ▸ hseq, ?_⟩
    rw [imprint, imprintCommands_of_pieces hpieces, hostCommands_append, hload]
    rfl

/-- `imprint` at a legal order writes the message and its terminator, or finds too few positions (45_framing.md R222). -/
theorem imprint_imprints (bytes : List MessageByte) (hs : s.Inv) (hcap : 14 ≤ s.bitCap) (ho : o ≤ s.orderMax) :
    s.Imprints o (messageBit s.params (withTerminator bytes)) (14 * (bytes.length + 4)) (imprint o bytes s) := by
  obtain ⟨first, rest, t, hsplit, hfits, hsame, ht, hseq, hrun⟩ := exists_imprint_start o bytes hs hcap
  have hot : o ≤ t.orderMax := hsame.orderMax ▸ ho
  have hseq' : ((t.scanStart o).seq .s0).Holds (fun j => messageBit s.params (withTerminator bytes) (0 + j))
      (14 * first.length) := by
    simp only [Nat.zero_add]
    rwa [State.scanStart_seq]
  have hlen : 14 * (bytes.length + 4) = 0 + 14 * first.length + 14 * rest.flatten.length := by
    rw [← length_withTerminator, hsplit, List.length_append, Nat.zero_add, Nat.mul_add]
  have hcarries := carriesMessage_messageBit s.params (withTerminator bytes)
  rw [hsplit] at hcarries
  rw [hrun, hostCommands_of_ok (t.wellFormed_scanInit hot) (exec_scanInit_scanStart hot) rfl, hostCommands_append, hlen]
  refine ((State.Imprinted.scanStart hsame ht hot).imprints_scanWrbuf hseq').bind (Nat.le_add_right _ _) fun u hu => ?_
  rw [Nat.zero_add] at hu ⊢
  exact hu.imprints_pieces hfits (hsplit ▸ hcarries.append.2)

/-- `imprint` at an order above ORDER_MAX ends at SCAN.INIT (45_framing.md R222). -/
theorem imprint_of_order_gt (bytes : List MessageByte) (hs : s.Inv) (hcap : 14 ≤ s.bitCap) (ho : s.orderMax < o)
    (hfield : o < 256) :
    ∃ t, imprint o bytes s = .raised t ∧ t.err = .invalidArgument ∧ ∀ a, t.planeAt a = s.planeAt a := by
  obtain ⟨_, _, t, -, -, hsame, -, -, hrun⟩ := exists_imprint_start o bytes hs hcap
  have hwf : (Instr.scanInit o).wellFormed t.widths = true := decide_eq_true hfield
  obtain ⟨-, habove⟩ := scanInitSetsOrderAndRewinds o t
  exact ⟨_, hrun.trans (hostCommands_of_error hwf (habove (hsame.orderMax ▸ ho)) (by simp)), rfl, hsame.planeAt⟩

end Sys2Proof.Machine
end

section
/-! PROOFS. The bits of a sequence read and decoded: BB.GET, HAM.GETB and DECMSG (42_bit_sequence.md R152; 43_hamming.md R177,
R179). -/

namespace Sys2Proof.Machine

variable {s t u : State} {f g : Nat → Bool} {k n w : Nat} {p : Params}

/-- `t` is `s` but for the answer. -/
def State.Answered (s t : State) : Prop := ∃ k r, t = s.raise k r

theorem State.Answered.refl (s : State) : s.Answered s := ⟨_, _, rfl⟩

theorem State.Answered.trans (h : s.Answered t) (h' : t.Answered u) : s.Answered u := by
  obtain ⟨_, _, rfl⟩ := h
  obtain ⟨k, r, rfl⟩ := h'
  exact ⟨k, r, rfl⟩

theorem State.answered_ret (s : State) (v : Word) : s.Answered (s.ret v) := ⟨_, _, rfl⟩

theorem State.Answered.sameMedium (h : s.Answered t) : s.SameMedium t := by
  obtain ⟨k, r, rfl⟩ := h
  exact (State.SameMedium.refl s).raise k r

theorem State.Answered.inv (h : s.Answered t) (hs : s.Inv) : t.Inv := by
  obtain ⟨k, r, rfl⟩ := h
  exact hs.raise k r

theorem State.Answered.seq (h : s.Answered t) (q : SeqId) : t.seq q = s.seq q := by
  obtain ⟨k, r, rfl⟩ := h
  exact s.raise_seq k r q

/-- The integer of the bits of `c`. -/
theorem natOfBits_eq {c : Nat} (hc : c < 2 ^ n) (h : ∀ j, j < n → f j = c.testBit j) : natOfBits f n = c := by
  refine Nat.eq_of_testBit_eq fun j => ?_
  rw [testBit_natOfBits]
  by_cases hj : j < n
  · rw [decide_eq_true hj, Bool.true_and, h j hj]
  · rw [decide_eq_false hj, Bool.false_and, Laws.testBit_above hc (Nat.not_lt.mp hj)]

theorem natOfBits_congr (h : ∀ j, j < n → f j = g j) : natOfBits f n = natOfBits g n :=
  natOfBits_eq (natOfBits_lt g n) fun j hj => by rw [testBit_natOfBits, decide_eq_true hj, Bool.true_and, h j hj]

/-- The byte that window `k` of the bit stream `f` decodes to, where both halves decode (43_hamming.md R177). -/
def decodedByte (p : Params) (f : Nat → Bool) (k : Nat) : MessageByte :=
  BitVec.ofNat 8 ((decodeNibble p (natOfBits (fun j => f (14 * k + j)) 7)).getD 0 +
    16 * (decodeNibble p (natOfBits (fun j => f (14 * k + 7 + j)) 7)).getD 0)

/-- The bytes of the windows `w` to `w + n - 1`. -/
def decodedBytes (p : Params) (f : Nat → Bool) (w n : Nat) : List MessageByte := (List.range' w n).map (decodedByte p f)

theorem decodedBytes_append (p : Params) (f : Nat → Bool) (w m n : Nat) :
    decodedBytes p f w m ++ decodedBytes p f (w + m) n = decodedBytes p f w (m + n) := by
  rw [decodedBytes, decodedBytes, decodedBytes, ← List.map_append, ← List.range'_append_1]

/-- A window that holds the code of a byte decodes to it (43_hamming.md R175, R177). -/
theorem decodedByte_of_byteCode (hcode : DefaultCode p) {b : MessageByte}
    (h : ∀ j, j < 14 → f (14 * k + j) = (byteCode p b.toNat).testBit j) : decodedByte p f k = b := by
  have hlow : natOfBits (fun j => f (14 * k + j)) 7 = encodeNibble p (b.toNat % 16) :=
    natOfBits_eq (encodeNibble_lt p _) fun j hj => by rw [h j (by omega), testBit_byteCode, if_pos hj]
  have hhigh : natOfBits (fun j => f (14 * k + 7 + j)) 7 = encodeNibble p (b.toNat / 16) :=
    natOfBits_eq (encodeNibble_lt p _) fun j hj => by
      rw [Nat.add_assoc, h _ (by omega), testBit_byteCode, if_neg (by omega), Nat.add_sub_cancel_left]
  have hb := b.isLt
  rw [decodedByte, hlow, hhigh, decodeNibble_encodeNibble hcode (by omega), decodeNibble_encodeNibble hcode (by omega),
    Option.getD_some, Option.getD_some, Nat.mod_add_div, BitVec.ofNat_toNat, BitVec.setWidth_eq]

/-- HAM.GETB of a complete window of a stream (43_hamming.md R177). -/
theorem exec_hamGetb_of_holds (hcode : DefaultCode s.params) (hseq : (s.seq .s0).Holds (fun j => f (14 * w + j)) n)
    (hk : 14 * k + 14 ≤ n) :
    ∃ r, exec (.hamGetb .s0 k) s = .next (s.ret r) ∧ BitVec.ofNat 8 r.toNat = decodedByte s.params f (w + k) := by
  obtain ⟨lo, hlo, -⟩ := exists_decodeNibble_nearest hcode ((s.seq .s0).window_lt (14 * k) 7)
  obtain ⟨hi, hhi, -⟩ := exists_decodeNibble_nearest hcode ((s.seq .s0).window_lt (14 * k + 7) 7)
  have hwindow : ∀ i, i + 7 ≤ 14 → (s.seq .s0).window (14 * k + i) 7 = natOfBits (fun j => f (14 * (w + k) + i + j)) 7 :=
    fun i hi => natOfBits_congr fun j hj => by
      rw [hseq.get _ (by omega)]
      congr 1
      omega
  have hsum : lo + 16 * hi < 2 ^ 8 := by
    have hlo16 := decodeNibble_lt hlo
    have hhi16 := decodeNibble_lt hhi
    omega
  refine ⟨_, exec_hamGetb_of_some (hseq.length ▸ hk) hlo hhi, ?_⟩
  rw [← Nat.add_zero (14 * k), hwindow 0 (by omega)] at hlo
  rw [hwindow 7 (by omega)] at hhi
  rw [decodedByte, ← Nat.add_zero (14 * (w + k)), hlo, hhi, natWord, BitVec.toNat_ofNat,
    Nat.mod_eq_of_lt (hsum.trans (by decide))]
  rfl

/-- HAM.GETB for complete windows of a stream, one after the other (43_hamming.md R179). -/
theorem getBytes_of_holds (hcode : DefaultCode s.params) (hseq : (s.seq .s0).Holds (fun j => f (14 * w + j)) n)
    {ks : List Nat} (hks : ∀ k ∈ ks, 14 * k + 14 ≤ n) :
    ∃ t, getBytes .s0 ks s = .done t (ks.map fun k => decodedByte s.params f (w + k)) ∧ s.Answered t := by
  induction ks generalizing s with
  | nil => exact ⟨s, rfl, .refl s⟩
  | cons k ks ih =>
    have hk := hks k List.mem_cons_self
    obtain ⟨r, hexec, hbyte⟩ := exec_hamGetb_of_holds hcode hseq hk
    have hlt : (s.seq .s0).length < 2 ^ 24 := (s.seq .s0).len.isLt
    rw [hseq.length] at hlt
    have hfield : fitsField 24 k = true := decide_eq_true (by omega)
    have hwf : (Instr.hamGetb .s0 k).wellFormed s.widths = true := by
      rw [Instr.wellFormed, hasSeq_s0, hfield, Bool.and_self]
    obtain ⟨t, hrest, ht⟩ := ih (s := s.ret r) hcode hseq fun k hk => hks k (List.mem_cons_of_mem _ hk)
    refine ⟨t, ?_, (s.answered_ret r).trans ht⟩
    rw [getBytes, hostCommand_of_ok hwf hexec rfl, HostRun.bind, hrest, HostRun.bind, List.map_cons, ← hbyte]
    rfl

/-- BB.LEN tells the host the length (42_bit_sequence.md R159). -/
theorem hostCommand_bbLen (s : State) :
    hostCommand (.bbLen .s0) s = .done (s.ret (natWord (s.seq .s0).length)) (natWord (s.seq .s0).length) :=
  hostCommand_of_ok (hasSeq_s0 _ : (Instr.bbLen .s0).wellFormed s.widths = true) (exec_bbLen s .s0) rfl

/-- DECMSG of a sequence that holds a part of a stream, from a window's beginning on (43_hamming.md R179). -/
theorem decMsg_of_holds (hcode : DefaultCode s.params) (hseq : (s.seq .s0).Holds (fun j => f (14 * w + j)) n) :
    ∃ t, decMsg .s0 s = .done t (decodedBytes s.params f w (n / 14)) ∧ s.Answered t := by
  have hdef : windowsOf n = n / 14 := rfl
  obtain ⟨t, hrun, ht⟩ := getBytes_of_holds (s := s.ret (natWord (s.seq .s0).length)) (ks := List.range (n / 14)) hcode hseq
    fun k hk => by
      have hlt := List.mem_range.mp hk
      omega
  refine ⟨t, ?_, (s.answered_ret _).trans ht⟩
  rw [hseq.length] at hrun
  rw [decMsg, hostCommand_bbLen, HostRun.bind, BitSeq.toNat_natWord_length, ← BitSeq.length, hseq.length, hdef, hrun,
    decodedBytes, List.range'_eq_map_range, List.map_map]
  rfl

/-- BB.GET for the bits of a sequence, one after the other (42_bit_sequence.md R152). -/
theorem readBits_eq {is : List Nat} (his : ∀ i ∈ is, i < s.bitCap ∧ i < 2 ^ s.widths.idxBits.val) :
    ∃ t, readBits .s0 is s = .done t (is.map (s.seq .s0).get) ∧ s.Answered t := by
  induction is generalizing s with
  | nil => exact ⟨s, rfl, .refl s⟩
  | cons i is ih =>
    obtain ⟨hcap, hfield⟩ := his i List.mem_cons_self
    have hwf : (Instr.bbGet .s0 i).wellFormed s.widths = true := by
      rw [Instr.wellFormed, hasSeq_s0, fitsField, decide_eq_true hfield, Bool.and_self]
    have hexec := exec_bbGet s .s0 i
    rw [decide_eq_true hcap, Bool.true_and] at hexec
    obtain ⟨t, hrest, ht⟩ := ih (s := s.ret (bitWord ((s.seq .s0).get i))) fun i hi => his i (List.mem_cons_of_mem _ hi)
    have hbit : (bitWord ((s.seq .s0).get i) != 0) = (s.seq .s0).get i := by cases (s.seq .s0).get i <;> rfl
    refine ⟨t, ?_, (s.answered_ret _).trans ht⟩
    rw [readBits, hostCommand_of_ok hwf hexec rfl, HostRun.bind, hrest, HostRun.bind, State.ret_result, hbit]
    rfl

end Sys2Proof.Machine
end

section
/-! PROOFS. The whole medium read and decoded, round by round, and the message found in it (45_framing.md R223, R225;
log 22). -/

namespace Sys2Proof.Machine

variable {s t u v : State} {f : Nat → Bool} {n w o rounds : Nat} {bytes : List MessageByte}

/-- The bits of the incomplete window carried over: the sequence holds them from the next window's beginning on (log 22). -/
theorem carryBits_of_holds (hs : s.Inv) (hseq : (s.seq .s0).Holds (fun j => f (14 * w + j)) n)
    (hidx : n ≤ 2 ^ s.widths.idxBits.val) :
    ∃ t, carryBits ((List.range n).drop (n / 14 * 14)) s = .done t () ∧ s.SameMedium t ∧ t.Inv ∧
      (t.seq .s0).Holds (fun j => f (14 * (w + n / 14) + j)) (n % 14) := by
  obtain ⟨hcap, -⟩ := hs.seq .s0
  rw [hseq.length] at hcap
  obtain ⟨t, hread, ht⟩ := readBits_eq (s := s) (is := (List.range n).drop (n / 14 * 14)) fun i hi => by
    have hlt := List.mem_range.mp (List.mem_of_mem_drop hi)
    exact ⟨by omega, by omega⟩
  have hlen : 1 * (((List.range n).drop (n / 14 * 14)).map (s.seq .s0).get).length = n % 14 := by
    rw [List.length_map, List.length_drop, List.length_range]
    omega
  have hsame := ht.sameMedium
  obtain ⟨u, hrun, hsame', hu, hheld⟩ := (bbApp_appends t.params).run_new (ht.inv hs)
    (f := fun j => f (14 * (w + n / 14) + j)) (by rw [hlen, hsame.bitCap]; omega) fun k hk j hj => by
      obtain rfl : j = 0 := by omega
      have hbit := hseq.get (n / 14 * 14 + k) (by omega)
      have hindex : 14 * (w + n / 14) + (1 * k + 0) = 14 * w + (n / 14 * 14 + k) := by omega
      rw [List.getElem_map, List.getElem_drop, List.getElem_range, hbit, hindex]
      cases f (14 * w + (n / 14 * 14 + k)) <;> rfl
  refine ⟨u, ?_, hsame.trans hsame', hu, hlen ▸ hheld⟩
  rw [carryBits, hread]
  exact hrun

/-- What SCAN.RDBUF appends: the bits of the stream behind those the sequence holds (44_scanner.md R198). -/
theorem State.BitsRead.holds {m : Nat} (h : s.BitsRead .s0 m t) (hseq : (s.seq .s0).Holds f n)
    (hbits : ∀ j, j < m → s.bitAt (s.eligibleAhead.getD j 0) = f (n + j)) : (t.seq .s0).Holds f (n + m) := by
  obtain ⟨hlen, hget⟩ := hseq
  refine ⟨hlen ▸ h.length, fun j hj => ?_⟩
  rcases Nat.lt_or_ge j n with hlt | hge
  · rw [h.old j (hlen ▸ hlt), hget j hlt]
  · obtain ⟨i, rfl⟩ := Nat.exists_eq_add_of_le hge
    have hnew := h.new i (by omega)
    rw [hlen] at hnew
    rw [hnew, hbits i (by omega)]

theorem State.atEnd_params (s : State) : s.atEnd.params = s.params := by
  unfold State.atEnd
  split <;> rfl

/-- The bits ahead are not written by reading. -/
theorem State.BitsRead.bitAt_eq {m : Nat} {q : SeqId} (h : s.BitsRead q m t) : t.bitAt = s.bitAt := by
  obtain ⟨-, -, horder⟩ := h.toWalked.keeps
  funext a
  rw [State.bitAt, State.bitAt, h.toWalked.num_eq, h.toWalked.planeAt_of_plane_eq h.plane, horder]

/-- The last round: SCAN.RDBUF reaches the end of the medium (45_framing.md R223). -/
theorem readMedium_of_end (h : exec (.scanRdbuf .s0) s = .next t) (herr : t.err = .ok) :
    readMedium (rounds + 1) s = decMsg .s0 t := by
  have hwf : (Instr.scanRdbuf .s0).wellFormed s.widths = true := hasSeq_s0 _
  rw [readMedium, hostExec_of_next hwf h, HostRun.bind, if_neg (by simp [herr])]

/-- A round that fills the sequence: it is decoded, the incomplete window carried over, and the next round begins (log 22). -/
theorem readMedium_of_full (h : exec (.scanRdbuf .s0) s = .next t) (herr : t.err = .bufOverflow)
    (hdec : decMsg .s0 t = .done u bytes) (hlen : (u.seq .s0).length = n)
    (hcarry : carryBits ((List.range n).drop (n / 14 * 14)) (u.ret (natWord n)) = .done v ()) :
    readMedium (rounds + 1) s = (readMedium rounds v).bind fun x more => .done x (bytes ++ more) := by
  have hwf : (Instr.scanRdbuf .s0).wellFormed s.widths = true := hasSeq_s0 _
  have hword : (natWord n).toNat = n := by
    rw [← hlen]
    exact BitSeq.toNat_natWord_length _
  have hdrop : windowsOf n * Config.bitsPerByteEnc = n / 14 * 14 := rfl
  rw [readMedium, hostExec_of_next hwf h, HostRun.bind, if_pos herr, hdec, HostRun.bind, hostCommand_bbLen, hlen,
    HostRun.bind, hword, hdrop, hcarry, HostRun.bind]

/-- `n` bits of window `w` of the stream `f` stand in the sequence, the bits behind them are those ahead. -/
structure State.Reading (s : State) (f : Nat → Bool) (w n : Nat) : Prop where
  inv : s.Inv
  seq : (s.seq .s0).Holds (fun j => f (14 * w + j)) n
  ahead : ∀ j, j < s.eligibleAhead.length → s.bitAt (s.eligibleAhead.getD j 0) = f (14 * w + (n + j))

namespace State.Reading

/-- The sequence holds the medium to its end: it is decoded (45_framing.md R223). -/
theorem readMedium_last (h : s.Reading f w n) (hcode : DefaultCode s.params) (hlt : n + s.eligibleAhead.length < s.bitCap) :
    ∃ t, readMedium (rounds + 1) s = .done t (decodedBytes s.params f w ((n + s.eligibleAhead.length) / 14)) := by
  rcases exec_scanRdbuf_cases h.inv .s0 with ⟨-, u, hexec, hu⟩ | ⟨hle, -⟩
  · obtain ⟨-, -, -, hseqEnd⟩ := u.atEnd_keeps
    have hheld := hu.holds h.seq h.ahead
    obtain ⟨hwalked, -⟩ := hu.toWalked.keeps
    have hparams : (u.atEnd.ret (natWord s.eligibleAhead.length)).params = s.params := u.atEnd_params.trans hwalked
    rw [← hseqEnd] at hheld
    obtain ⟨t, hdec, -⟩ := decMsg_of_holds (s := u.atEnd.ret (natWord s.eligibleAhead.length)) (hparams ▸ hcode)
      ((u.atEnd.ret_seq _ _).symm ▸ hheld)
    exact ⟨t, by rw [readMedium_of_end hexec rfl, hdec, hparams]⟩
  · rw [h.seq.length] at hle
    omega

/-- The sequence fills: its complete windows are decoded, the bits of the incomplete one are carried over, and the reading
goes on behind them (44_scanner.md R198; log 22). -/
theorem readMedium_full (h : s.Reading f w n) (hcode : DefaultCode s.params) (hle : s.bitCap ≤ n + s.eligibleAhead.length)
    (hidx : s.bitCap ≤ 2 ^ s.widths.idxBits.val) :
    ∃ t, (∀ rounds, readMedium (rounds + 1) s = (readMedium rounds t).bind fun x more =>
        .done x (decodedBytes s.params f w (s.bitCap / 14) ++ more)) ∧
      t.Reading f (w + s.bitCap / 14) (s.bitCap % 14) ∧ t.params = s.params ∧
      t.eligibleAhead = s.eligibleAhead.drop (s.bitCap - n) := by
  obtain ⟨hcap, -⟩ := h.inv.seq .s0
  rw [h.seq.length] at hcap
  rcases exec_scanRdbuf_cases h.inv .s0 with ⟨hlt, -⟩ | ⟨-, u, hexec, hu⟩
  · rw [h.seq.length] at hlt
    omega
  · rw [h.seq.length] at hexec hu
    obtain ⟨hparams, -⟩ := hu.toWalked.keeps
    have hheld := hu.holds h.seq fun j hj => h.ahead j (by omega)
    rw [Nat.add_sub_cancel' hcap] at hheld
    obtain ⟨v, hdec, hv⟩ := decMsg_of_holds (s := u.raise .bufOverflow (natWord (s.bitCap - n))) (hparams.symm ▸ hcode)
      ((u.raise_seq _ _ _).symm ▸ hheld)
    have hvparams := hv.sameMedium.params.trans hparams
    have hvheld : (v.seq .s0).Holds (fun j => f (14 * w + j)) s.bitCap := by rwa [hv.seq, State.raise_seq]
    obtain ⟨t, hcarry, hsame, ht, htheld⟩ := carryBits_of_holds (s := v.ret (natWord s.bitCap))
      ((hv.inv (hu.inv.raise _ _)).ret _) ((v.ret_seq _ _).symm ▸ hvheld) (by rwa [State.ret_widths, State.widths, hvparams])
    have htu : u.SameMedium t :=
      ((((State.SameMedium.refl u).raise _ _).trans hv.sameMedium).ret _).trans hsame
    have hahead : t.eligibleAhead = s.eligibleAhead.drop (s.bitCap - n) := htu.eligibleAhead.trans hu.ahead
    refine ⟨t, fun rounds => ?_, ⟨ht, htheld, fun j hj => ?_⟩, htu.params.trans hparams, hahead⟩
    · rw [readMedium_of_full hexec rfl hdec hvheld.length hcarry, State.raise_params, hparams]
    · rw [hahead, List.length_drop] at hj
      rw [htu.bitAt, hu.bitAt_eq, hahead, getD_drop, h.ahead _ (by omega)]
      congr 1
      omega

end State.Reading

/-- The medium is read to its end and decoded, from window `w` of the stream `f` on (45_framing.md R223; log 22). -/
theorem readMedium_decodes (h : s.Reading f w n) (hcode : DefaultCode s.params) (hcap : 14 ≤ s.bitCap) (hn : n < 14)
    (hrounds : s.eligibleAhead.length < rounds)
    (hidx : s.bitCap ≤ 2 ^ s.widths.idxBits.val ∨ n + s.eligibleAhead.length < s.bitCap) :
    ∃ t, readMedium rounds s = .done t (decodedBytes s.params f w ((n + s.eligibleAhead.length) / 14)) := by
  induction rounds generalizing s n w with
  | zero => exact absurd hrounds (Nat.not_lt_zero _)
  | succ rounds ih =>
    rcases Nat.lt_or_ge (n + s.eligibleAhead.length) s.bitCap with hlt | hge
    · exact h.readMedium_last hcode hlt
    · have hidx := hidx.resolve_right (Nat.not_lt.mpr hge)
      obtain ⟨t, hround, ht, hparams, hahead⟩ := h.readMedium_full hcode hge hidx
      have hleft : t.eligibleAhead.length = s.eligibleAhead.length - (s.bitCap - n) := by rw [hahead, List.length_drop]
      obtain ⟨u, hrest⟩ := ih ht (hparams.symm ▸ hcode) (by rwa [State.bitCap, hparams]) (Nat.mod_lt _ (by decide))
        (by omega) (.inl (by rwa [State.bitCap, State.widths, hparams]))
      have htotal : s.bitCap / 14 + (s.bitCap % 14 + t.eligibleAhead.length) / 14 =
          (n + s.eligibleAhead.length) / 14 := by omega
      refine ⟨u, ?_⟩
      rw [hround, hrest, hparams, HostRun.bind, decodedBytes_append, htotal]

/-- The message in the decoded bytes: no byte of it is zero, and a terminator stands behind it (45_framing.md R221, R223). -/
theorem cutAtZero_of_terminated {rest : List MessageByte} (hbytes : ∀ b ∈ bytes, b ≠ 0) :
    cutAtZero (withTerminator bytes ++ rest) = bytes := by
  have hsplit : withTerminator bytes ++ rest = bytes ++ 0 :: ([0, 0, 0] ++ rest) := by
    rw [withTerminator, List.append_assoc]
    rfl
  rw [cutAtZero, hsplit, List.takeWhile_append_of_pos fun b hb => bne_iff_ne.mpr (hbytes b hb)]
  simp

/-- A stream that begins with a message decodes to the message and more (43_hamming.md R178, R179). -/
theorem decodedBytes_of_carriesMessage {p : Params} (hcode : DefaultCode p) (h : CarriesMessage p f bytes)
    (hn : bytes.length ≤ n) : ∃ rest, decodedBytes p f 0 n = bytes ++ rest := by
  obtain ⟨m, rfl⟩ := Nat.exists_eq_add_of_le hn
  refine ⟨decodedBytes p f (0 + bytes.length) m, ?_⟩
  rw [← decodedBytes_append]
  congr 1
  refine List.ext_getElem (by simp [decodedBytes]) fun k _ hk => ?_
  simp only [decodedBytes, List.getElem_map, List.getElem_range', Nat.zero_add, Nat.one_mul]
  exact decodedByte_of_byteCode hcode (h k hk)

/-- Bit `j` of the medium at order `o`: what SCAN.INIT, then reading, finds at position `j` (44_scanner.md R194, R200). -/
def State.mediumBit (s : State) (o j : Nat) : Bool := (s.scanStart o).bitAt ((s.positions o).getD j 0)

/-- `extract` decodes all bits of the medium and cuts the message off (45_framing.md R223). -/
theorem extract_decodes (hs : s.Inv) (hcode : DefaultCode s.params) (hcap : 14 ≤ s.bitCap) (ho : o ≤ s.orderMax)
    (hidx : s.bitCap ≤ 2 ^ s.widths.idxBits.val ∨ (s.positions o).length < s.bitCap) :
    ∃ t, extract o s = .done t (cutAtZero (decodedBytes s.params (s.mediumBit o) 0 ((s.positions o).length / 14))) := by
  have hwf : (Instr.bbNew .s0).wellFormed (s.scanStart o).widths = true := hasSeq_s0 _
  have hstart := hs.scanStart ho
  have hsame := ((State.SameMedium.refl (s.scanStart o)).setSeq .s0 .empty).ret 0
  have hahead := hsame.eligibleAhead.trans (s.eligibleAhead_scanStart ho)
  have hreading : State.Reading (((s.scanStart o).setSeq .s0 .empty).ret 0) (s.mediumBit o) 0 0 := by
    refine ⟨(hstart.setSeq .s0 (.empty _)).ret 0, .empty _, fun j _ => ?_⟩
    rw [hahead, hsame.bitAt, Nat.mul_zero, Nat.zero_add, Nat.zero_add, State.mediumBit]
  obtain ⟨t, hread⟩ := readMedium_decodes (rounds := s.blockCount + 1) hreading hcode hcap (by decide)
    (by
      rw [hahead, Nat.lt_succ_iff, State.blockCount, Nat.mul_comm]
      exact (List.length_filter_le _ _).trans_eq (length_dcAddrs _ _))
    (by rwa [hahead, Nat.zero_add])
  rw [hahead, Nat.zero_add] at hread
  refine ⟨t, ?_⟩
  rw [extract, hostCommands_of_ok (s.wellFormed_scanInit ho) (exec_scanInit_scanStart ho) rfl,
    hostCommands_of_ok hwf (exec_bbNew _ _) rfl, hostCommands, HostRun.bind]
  have hblocks : State.blockCount (((s.scanStart o).setSeq .s0 .empty).ret 0) = s.blockCount := rfl
  rw [hblocks, hread]
  rfl

/-- A new scan of an imprinted medium finds the message at its beginning (44_scanner.md R201; 45_framing.md R225). -/
theorem State.Imprinted.carriesMessage (ho : o ≤ s.orderMax)
    (h : s.Imprinted o (messageBit s.params bytes) (14 * bytes.length) t) :
    CarriesMessage t.params (t.mediumBit o) bytes := by
  have horder : (t.scanStart o).order.toNat = t.order.toNat := (t.scanStart_order (h.orderMax ▸ ho)).trans h.order.symm
  have hbitAt : (t.scanStart o).bitAt = t.bitAt := by
    funext a
    rw [State.bitAt, State.bitAt, horder]
    rfl
  intro k hk j hj
  rw [State.mediumBit, hbitAt, h.positions, h.bit _ (by omega), carriesMessage_messageBit s.params bytes k hk j hj, h.params]

/-- Settles O60: the bits imprinted are the first bits that `extract` decodes, and the terminator ends the message. -/
theorem imprintThenExtractGivesTheMessage : Obligations.ImprintThenExtractGivesTheMessage := by
  intro o bytes s hs hcode hcap
  refine ⟨fun ho hroom => ?_, fun ho => (imprint_imprints bytes hs hcap ho).2, imprint_of_order_gt bytes hs hcap⟩
  obtain ⟨t, hrun, ht⟩ := (imprint_imprints bytes hs hcap ho).1 hroom
  refine ⟨t, hrun, fun hbytes hidx => ?_⟩
  have hot : o ≤ t.orderMax := ht.orderMax ▸ ho
  have hcarries : CarriesMessage t.params (t.mediumBit o) (withTerminator bytes) :=
    State.Imprinted.carriesMessage ho (by rwa [length_withTerminator])
  have hlen := length_withTerminator bytes
  obtain ⟨u, hextract⟩ := extract_decodes ht.inv (ht.params.symm ▸ hcode) (by rwa [State.bitCap, ht.params]) hot
    (by rwa [State.bitCap, State.widths, ht.params, ht.positions])
  obtain ⟨rest, hdecoded⟩ := decodedBytes_of_carriesMessage (n := (t.positions o).length / 14) (ht.params.symm ▸ hcode)
    hcarries (by rw [ht.positions]; omega)
  exact ⟨u, by rw [hextract, hdecoded, cutAtZero_of_terminated hbytes]⟩

end Sys2Proof.Machine
end

section
/-! PROOFS. Words that do not decode (60_exceptions.md R240). -/

namespace Sys2Proof.Laws

/-- A word is rejected for its opcode or for a bit its command does not use, and for nothing else (30_encoding.md R81). -/
theorem decode_eq_error_iff (w : Widths) (c : Word) :
    (∃ e, decode w c = .error e) ↔ (∀ row ∈ opcodeTable w, row.op ≠ opcodeOf c) ∨
      ∃ row ∈ opcodeTable w, row.op = opcodeOf c ∧ c.extractLsb' 0 56 &&& ~~~row.used ≠ 0 := by
  cases hfind : (opcodeTable w).find? (fun row => row.op == opcodeOf c) with
  | none =>
    have hnone : ∀ row ∈ opcodeTable w, row.op ≠ opcodeOf c := by simpa using hfind
    exact iff_of_true ⟨.reservedOpcode (opcodeOf c), by rw [decode, hfind]⟩ (.inl hnone)
  | some row =>
    obtain ⟨hmem, hop⟩ := find?_opcode_iff.mp hfind
    by_cases hunused : c.extractLsb' 0 56 &&& ~~~row.used = 0
    · have hok : decode w c = .ok (row.operands c) := by simp only [decode, hfind, if_pos hunused]
      refine iff_of_false (fun ⟨e, he⟩ => nomatch hok.symm.trans he) ?_
      rintro (hnone | ⟨row', hmem', hop', hused'⟩)
      · exact hnone row hmem hop
      · have hrow : row' = row := List.inj_on_of_nodup_map (ops_nodup w) hmem' hmem (hop'.trans hop.symm)
        exact hused' (hrow ▸ hunused)
    · exact iff_of_true ⟨.reservedBits (opcodeOf c), by simp only [decode, hfind, if_neg hunused]⟩
        (.inr ⟨row, hmem, hop, hunused⟩)

end Sys2Proof.Laws

namespace Sys2Proof.Machine

/-- A word that does not decode raises IllegalCommand and does nothing else. -/
theorem performWord_of_error {s : State} {c : Word} {e : Reject} (h : decode s.widths c = .error e) :
    performWord c s = .next (s.raise .illegalCommand 0) := by
  simp only [performWord, h]

/-- Settles O6: either cause rejects the word, and the state that has counted it raises with RESULT 0. -/
theorem illegalWordRaisesIllegalCommand : Obligations.IllegalWordRaisesIllegalCommand := by
  refine ⟨rfl, fun s c ms hpending hillegal => ?_⟩
  obtain ⟨e, herror⟩ := (Laws.decode_eq_error_iff s.widths c).mpr hillegal
  have hwidths : (s.setPending ms).beginCommand.widths = s.widths := rfl
  rw [step_of_move hpending]
  exact (performMove_cmd c _).trans (performWord_of_error (hwidths ▸ herror))

end Sys2Proof.Machine
end

section
/-! PROOFS. How a command ends: which errors leave what the command has written, and which are raised before it writes
(60_exceptions.md R237, R238, R243, R244, R251). -/

namespace Sys2Proof.Machine

/-- How a command that began in `s` ends. Only EndOfMedium and BufOverflow of SCAN.RDBUF come after a write. -/
inductive CommandEnd (s : State) : Instr → State → Prop where
  | completed (i : Instr) (t : State) : t.err = .ok → CommandEnd s i t
  | ranOut (i : Instr) (t : State) : t.err = .endOfMedium → CommandEnd s i t
  | bufferFull (q : SeqId) (t : State) : t.err = .bufOverflow → CommandEnd s (.scanRdbuf q) t
  | raisedFirst (i : Instr) (kind : ErrCode) : CommandEnd s i (s.raise kind 0)

/-- SCAN.RDBUF completes or finds its sequence full (44_scanner.md R198). -/
theorem State.readSeq_err (q : SeqId) (room n : Nat) (s : State) :
    (State.readSeq q room n s).err = .ok ∨ (State.readSeq q room n s).err = .bufOverflow := by
  induction room generalizing n s with
  | zero => exact .inr rfl
  | succ room ih =>
    rcases hadv : s.advance with ⟨t, _ | a⟩ <;> simp only [State.readSeq, hadv]
    · exact .inl rfl
    · exact ih (n + 1) _

namespace CommandEnd

variable {s : State}

theorem ret (i : Instr) (u : State) (v : Word) : CommandEnd s i (u.ret v) := .completed i _ rfl

theorem endOfMedium (i : Instr) (u : State) (r : Word) : CommandEnd s i (u.raise .endOfMedium r) := .ranOut i _ rfl

theorem mutate (i : Instr) (q : SeqId) (lo n v : Nat) : CommandEnd s i (s.mutate q lo n v) := by
  rcases s.mutate_cases q lo n v with ⟨-, h⟩ | ⟨-, h⟩ <;> rw [h]
  · exact .raisedFirst i _
  · exact .ret i _ _

theorem mutateRange (i : Instr) (q : SeqId) (lo hi : Nat) (bit : Bool) : CommandEnd s i (s.mutateRange q lo hi bit) := by
  unfold State.mutateRange
  split
  · exact .raisedFirst i _
  · exact .mutate i _ _ _ _

theorem readSeq (q : SeqId) (room n : Nat) : CommandEnd s (.scanRdbuf q) (State.readSeq q room n s) := by
  rcases State.readSeq_err q room n s with h | h
  · exact .completed _ _ h
  · exact .bufferFull q _ h

end CommandEnd

/-- EVERY WAY A COMMAND CAN END (60_exceptions.md R243). -/
theorem exec_end {i : Instr} {s t : State} (h : exec i s = .next t) : CommandEnd s i t := by
  cases i with
  | cfgDim w h' =>
    rw [eq_of_next h]
    split
    · exact .raisedFirst _ _
    · exact .ret _ _ _
  | blkLoad x0 y0 => rw [(State.onPlane_next h).2]; exact .ret _ _ _
  | blkStore x0 y0 => rw [(State.onPlane_next h).2]; exact .ret _ _ _
  | elig k order =>
    rw [eq_of_next h]
    split
    · exact .ret _ _ _
    · exact .raisedFirst _ _
  | bbSet q n bit => rw [eq_of_next h]; exact .mutate _ _ _ _ _
  | bbClr q n => rw [eq_of_next h]; exact .mutate _ _ _ _ _
  | bbSetr q lo hi => rw [eq_of_next h]; exact .mutateRange _ _ _ _ _
  | bbClrr q lo hi => rw [eq_of_next h]; exact .mutateRange _ _ _ _ _
  | bbApp q bit => rw [eq_of_next h]; exact .mutate _ _ _ _ _
  | bbAppall d q => rw [eq_of_next h]; exact .mutate _ _ _ _ _
  | hamDec w =>
    rw [eq_of_next h]
    split
    · exact .ret _ _ _
    · exact .raisedFirst _ _
  | hamPutb q byte => rw [eq_of_next h]; exact .mutate _ _ _ _ _
  | hamGetb q k =>
    rw [eq_of_next h]
    split
    · exact .raisedFirst _ _
    · split
      · exact .ret _ _ _
      · exact .raisedFirst _ _
  | scanInit order =>
    rw [eq_of_next h]
    split
    · exact .ret _ _ _
    · exact .raisedFirst _ _
  | scanAdv =>
    rw [(State.onScan_next h).2]
    split
    · exact .ret _ _ _
    · exact .endOfMedium _ _ _
  | scanRdbit =>
    rw [(State.onScan_next h).2]
    split
    · exact .ret _ _ _
    · exact .endOfMedium _ _ _
  | scanWrbit bit =>
    rw [(State.onScan_next h).2]
    split
    · exact .ret _ _ _
    · exact .endOfMedium _ _ _
  | scanWrbuf q =>
    rw [(State.onScan_next h).2]
    split
    · exact .ret _ _ _
    · exact .endOfMedium _ _ _
  | scanRdbuf q => rw [(State.onScan_next h).2]; exact .readSeq q _ _
  | scanCount order =>
    rw [(State.onPlane_next h).2]
    split
    · exact .ret _ _ _
    · exact .raisedFirst _ _
  | _ => rw [eq_of_next h]; exact .ret _ _ _

/-- Settles O17: a command that ends with one of the three errors has raised it on the state it began in. -/
theorem operandErrorsChangeNothing : Obligations.OperandErrorsChangeNothing := by
  intro i s t h herr
  cases exec_end h with
  | completed i t hok => simp [hok] at herr
  | ranOut i t hend => simp [hend] at herr
  | bufferFull q t hfull => simp [hfull] at herr
  | raisedFirst i kind => rfl

end Sys2Proof.Machine
end
